-- ==== Sys2Proof/Word.lean ====
section
/-! DEFINITION. The word types of the purenes CORE: the 8-bit byte of every bus transfer and the 16-bit processor address
(spec/00_scope.md R5, R8). -/

namespace Sys2Proof

/-- One 8-bit byte: a general register, a bus datum, an operand byte (R5). -/
abbrev Byte := BitVec 8

/-- A 16-bit processor address (R5). -/
abbrev Word := BitVec 16

end Sys2Proof
end

