-- ==== Sys2Proof/Config.lean ====
section
/-! DEFINITION. What an implementation fixes, and the free values: the settings of the parameter `SPRITE_STATUS` and the
values the spec leaves undriven ("draws under no law", spec/00_scope.md R6, spec/93_implementation_defined.md U4 to U9).
A free value is an opaque constant applied to the number of the draw, an answer of an external bus one applied to the history
of its accesses, so nothing can be proved of either (log 3, log 5). -/

namespace Sys2Proof.Machine

/-- What a call hands to, or is answered by, the outside of the block: one bus transfer, the byte a port read of the host
returns, or one pixel for the frame buffer and the greyscale bit it is to be shown with (R38, R62, R70, R231, log 12). -/
inductive IoEvent where
  | cpuRead (a : Word) (d : Byte)
  | cpuWrite (a : Word) (d : Byte)
  | ppuRead (a : BitVec 14) (d : Byte)
  | ppuWrite (a : BitVec 14) (d : Byte)
  | portRead (index : Nat) (d : Byte)
  | pixel (x : Nat) (y : Int) (index : BitVec 4)
  | greyscale (on : Bool)
  deriving DecidableEq, Repr

end Sys2Proof.Machine

namespace Sys2Proof

open Machine

/-- The three settings of `SPRITE_STATUS` (R235, D32). -/
inductive SpriteStatus where
  | draw    -- the sprite bits become set by free draws (this spec's value)
  | never   -- both bits stay 0
  | refuse  -- a STATUS read with MASK bit 4 set is refused
  deriving DecidableEq, Repr

/-- `draw StatusLowBits`: bits 4..0 of a STATUS read (R192, D18). -/
opaque Config.statusLowBits : Nat → BitVec 5

/-- `draw OpenBusRead`: a read of a write-only PPU register (R188, D19). -/
opaque Config.openBusRead : Nat → Byte

/-- `draw Sprite0`: whether sprite zero is hit at a dot (R235, D32). -/
opaque Config.sprite0 : Nat → Bool

/-- `draw SpriteOverflow`: whether the sprite overflow bit becomes set at a dot (R235, D32). -/
opaque Config.spriteOverflow : Nat → Bool

/-- What OAM byte `index` holds after the PPU reset that made draw number `epoch` (R51, U7, D33). -/
opaque Config.oamByte : (epoch : Nat) → (index : Nat) → Byte

/-- `ExtBus.read`, where no RAM or ROM premise is made of it: a function of the accesses made before, the last one first,
and of the address (R6, R63, D11). -/
opaque Config.extBusRead : (history : List IoEvent) → Word → Byte

/-- The answer of `PpuBus`, where no RAM or ROM premise is made of it: a function of the accesses made before, the last one
first, and of the address (R6, R70, D12). -/
opaque Config.ppuBusRead : (history : List IoEvent) → BitVec 14 → Byte

end Sys2Proof
end

