-- ==== Sys2Proof/Syntax.lean ====
section
/-! DEFINITION. The instructions: one constructor per row of spec/opcode_table.json, named by mnemonic and addressing mode,
with its assembled operand (spec/30_encoding.md R85 to R91): a byte for the two-byte forms, a 16-bit word, low byte first in
memory (R87), for the three-byte forms. The operand's width is in its type, so every term has an encoding. -/

namespace Sys2Proof

/-- The 151 instructions of R89. -/
inductive Instr where
  -- LDA (R130)
  | ldaImm (b : Byte)
  | ldaZp0 (zz : Byte)
  | ldaZpx (zz : Byte)
  | ldaAbs (a : Word)
  | ldaAbx (a : Word)
  | ldaAby (a : Word)
  | ldaIzx (zz : Byte)
  | ldaIzy (zz : Byte)
  -- LDX (R131)
  | ldxImm (b : Byte)
  | ldxZp0 (zz : Byte)
  | ldxZpy (zz : Byte)
  | ldxAbs (a : Word)
  | ldxAby (a : Word)
  -- LDY (R132)
  | ldyImm (b : Byte)
  | ldyZp0 (zz : Byte)
  | ldyZpx (zz : Byte)
  | ldyAbs (a : Word)
  | ldyAbx (a : Word)
  -- STA (R133)
  | staZp0 (zz : Byte)
  | staZpx (zz : Byte)
  | staAbs (a : Word)
  | staAbx (a : Word)
  | staAby (a : Word)
  | staIzx (zz : Byte)
  | staIzy (zz : Byte)
  -- STX (R134)
  | stxZp0 (zz : Byte)
  | stxZpy (zz : Byte)
  | stxAbs (a : Word)
  -- STY (R135)
  | styZp0 (zz : Byte)
  | styZpx (zz : Byte)
  | styAbs (a : Word)
  -- TAX (R136)
  | tax
  -- TAY (R137)
  | tay
  -- TXA (R138)
  | txa
  -- TYA (R139)
  | tya
  -- TSX (R140)
  | tsx
  -- TXS (R141)
  | txs
  -- PHA (R142)
  | pha
  -- PHP (R143)
  | php
  -- PLA (R144)
  | pla
  -- PLP (R145)
  | plp
  -- AND (R146)
  | andImm (b : Byte)
  | andZp0 (zz : Byte)
  | andZpx (zz : Byte)
  | andAbs (a : Word)
  | andAbx (a : Word)
  | andAby (a : Word)
  | andIzx (zz : Byte)
  | andIzy (zz : Byte)
  -- ORA (R147)
  | oraImm (b : Byte)
  | oraZp0 (zz : Byte)
  | oraZpx (zz : Byte)
  | oraAbs (a : Word)
  | oraAbx (a : Word)
  | oraAby (a : Word)
  | oraIzx (zz : Byte)
  | oraIzy (zz : Byte)
  -- EOR (R148)
  | eorImm (b : Byte)
  | eorZp0 (zz : Byte)
  | eorZpx (zz : Byte)
  | eorAbs (a : Word)
  | eorAbx (a : Word)
  | eorAby (a : Word)
  | eorIzx (zz : Byte)
  | eorIzy (zz : Byte)
  -- BIT (R149)
  | bitZp0 (zz : Byte)
  | bitAbs (a : Word)
  -- ASL (R150)
  | aslAcc
  | aslZp0 (zz : Byte)
  | aslZpx (zz : Byte)
  | aslAbs (a : Word)
  | aslAbx (a : Word)
  -- LSR (R151)
  | lsrAcc
  | lsrZp0 (zz : Byte)
  | lsrZpx (zz : Byte)
  | lsrAbs (a : Word)
  | lsrAbx (a : Word)
  -- ROL (R152)
  | rolAcc
  | rolZp0 (zz : Byte)
  | rolZpx (zz : Byte)
  | rolAbs (a : Word)
  | rolAbx (a : Word)
  -- ROR (R153)
  | rorAcc
  | rorZp0 (zz : Byte)
  | rorZpx (zz : Byte)
  | rorAbs (a : Word)
  | rorAbx (a : Word)
  -- ADC (R154)
  | adcImm (b : Byte)
  | adcZp0 (zz : Byte)
  | adcZpx (zz : Byte)
  | adcAbs (a : Word)
  | adcAbx (a : Word)
  | adcAby (a : Word)
  | adcIzx (zz : Byte)
  | adcIzy (zz : Byte)
  -- SBC (R155)
  | sbcImm (b : Byte)
  | sbcZp0 (zz : Byte)
  | sbcZpx (zz : Byte)
  | sbcAbs (a : Word)
  | sbcAbx (a : Word)
  | sbcAby (a : Word)
  | sbcIzx (zz : Byte)
  | sbcIzy (zz : Byte)
  -- CMP (R156)
  | cmpImm (b : Byte)
  | cmpZp0 (zz : Byte)
  | cmpZpx (zz : Byte)
  | cmpAbs (a : Word)
  | cmpAbx (a : Word)
  | cmpAby (a : Word)
  | cmpIzx (zz : Byte)
  | cmpIzy (zz : Byte)
  -- CPX (R157)
  | cpxImm (b : Byte)
  | cpxZp0 (zz : Byte)
  | cpxAbs (a : Word)
  -- CPY (R158)
  | cpyImm (b : Byte)
  | cpyZp0 (zz : Byte)
  | cpyAbs (a : Word)
  -- INC (R159)
  | incZp0 (zz : Byte)
  | incZpx (zz : Byte)
  | incAbs (a : Word)
  | incAbx (a : Word)
  -- DEC (R160)
  | decZp0 (zz : Byte)
  | decZpx (zz : Byte)
  | decAbs (a : Word)
  | decAbx (a : Word)
  -- INX (R161)
  | inx
  -- INY (R162)
  | iny
  -- DEX (R163)
  | dex
  -- DEY (R164)
  | dey
  -- BPL (R165)
  | bpl (rr : Byte)
  -- BMI (R166)
  | bmi (rr : Byte)
  -- BVC (R167)
  | bvc (rr : Byte)
  -- BVS (R168)
  | bvs (rr : Byte)
  -- BCC (R169)
  | bcc (rr : Byte)
  -- BCS (R170)
  | bcs (rr : Byte)
  -- BNE (R171)
  | bne (rr : Byte)
  -- BEQ (R172)
  | beq (rr : Byte)
  -- JMP (R173)
  | jmpAbs (a : Word)
  | jmpInd (a : Word)
  -- JSR (R174)
  | jsr (a : Word)
  -- RTS (R175)
  | rts
  -- BRK (R176)
  | brk
  -- RTI (R177)
  | rti
  -- CLC (R178)
  | clc
  -- SEC (R179)
  | sec
  -- CLI (R180)
  | cli
  -- SEI (R181)
  | sei
  -- CLD (R182)
  | cld
  -- SED (R183)
  | sed
  -- CLV (R184)
  | clv
  -- NOP (R185)
  | nop
  deriving DecidableEq, Repr

end Sys2Proof
end

