-- ==== Sys2Proof/Decode.lean ====
section
/-! DEFINITION. The decoder and the encoder (spec/30_encoding.md R85 to R97) and the descriptor of each instruction
(spec/10_state.md R34, spec/40_cpu_engine.md R103, R104): opcode, addressing mode, base cycles, page-crossing cycle. -/

namespace Sys2Proof

/-! ## Byte order -/

/-- `{hi, lo}`: a word from its two bytes (R8, R64). -/
def word16 (hi lo : Byte) : Word := hi ++ lo

/-- Bits 15..8 of a word. -/
def highByte (w : Word) : Byte := w.extractLsb' 8 8

/-- Bits 7..0 of a word. -/
def lowByte (w : Word) : Byte := w.extractLsb' 0 8

/-! ## The shape of an operand -/

/-- The thirteen addressing modes (R88). -/
inductive Mode where
  | implied
  | accumulator
  | immediate
  | zeroPage
  | zeroPageX
  | zeroPageY
  | absolute
  | absoluteX
  | absoluteY
  | indirect
  | indexedIndirect
  | indirectIndexed
  | relative
  deriving DecidableEq, Repr

/-- An operand in memory, by addressing mode, with the assembled operand bytes (R119 to R124, R126, R127). -/
inductive MemOperand where
  | zeroPage (zz : Byte)
  | zeroPageX (zz : Byte)
  | zeroPageY (zz : Byte)
  | absolute (a : Word)
  | absoluteX (a : Word)
  | absoluteY (a : Word)
  | indexedIndirect (zz : Byte)
  | indirectIndexed (zz : Byte)
  deriving DecidableEq, Repr

/-- What a read instruction reads: its second byte (R118) or memory. -/
inductive Source where
  | immediate (b : Byte)
  | memory (m : MemOperand)
  deriving DecidableEq, Repr

/-- What a shift, rotate, increment or decrement changes: the accumulator (R117) or memory. -/
inductive Target where
  | accumulator
  | memory (m : MemOperand)
  deriving DecidableEq, Repr

/-- The operations that read one operand. -/
inductive ReadOp where
  | lda
  | ldx
  | ldy
  | and
  | ora
  | eor
  | bit
  | adc
  | sbc
  | cmp
  | cpx
  | cpy
  deriving DecidableEq, Repr

/-- The operations that store one register. -/
inductive StoreOp where
  | sta
  | stx
  | sty
  deriving DecidableEq, Repr

/-- The operations that read and write one operand. -/
inductive ModifyOp where
  | asl
  | lsr
  | rol
  | ror
  | inc
  | dec
  deriving DecidableEq, Repr

/-- The conditional branches. -/
inductive BranchOp where
  | bpl
  | bmi
  | bvc
  | bvs
  | bcc
  | bcs
  | bne
  | beq
  deriving DecidableEq, Repr

/-- An instruction as an operation and its operand; the forms of one addressing mode stand for themselves. -/
inductive View where
  | read (op : ReadOp) (src : Source)
  | store (op : StoreOp) (m : MemOperand)
  | modify (op : ModifyOp) (t : Target)
  | branch (op : BranchOp) (rr : Byte)
  | single
  deriving DecidableEq, Repr

/-- The operation and operand of an instruction. -/
def Instr.view : Instr → View
  | .ldaImm b => .read .lda (.immediate b)
  | .ldaZp0 zz => .read .lda (.memory (.zeroPage zz))
  | .ldaZpx zz => .read .lda (.memory (.zeroPageX zz))
  | .ldaAbs a => .read .lda (.memory (.absolute a))
  | .ldaAbx a => .read .lda (.memory (.absoluteX a))
  | .ldaAby a => .read .lda (.memory (.absoluteY a))
  | .ldaIzx zz => .read .lda (.memory (.indexedIndirect zz))
  | .ldaIzy zz => .read .lda (.memory (.indirectIndexed zz))
  | .ldxImm b => .read .ldx (.immediate b)
  | .ldxZp0 zz => .read .ldx (.memory (.zeroPage zz))
  | .ldxZpy zz => .read .ldx (.memory (.zeroPageY zz))
  | .ldxAbs a => .read .ldx (.memory (.absolute a))
  | .ldxAby a => .read .ldx (.memory (.absoluteY a))
  | .ldyImm b => .read .ldy (.immediate b)
  | .ldyZp0 zz => .read .ldy (.memory (.zeroPage zz))
  | .ldyZpx zz => .read .ldy (.memory (.zeroPageX zz))
  | .ldyAbs a => .read .ldy (.memory (.absolute a))
  | .ldyAbx a => .read .ldy (.memory (.absoluteX a))
  | .staZp0 zz => .store .sta (.zeroPage zz)
  | .staZpx zz => .store .sta (.zeroPageX zz)
  | .staAbs a => .store .sta (.absolute a)
  | .staAbx a => .store .sta (.absoluteX a)
  | .staAby a => .store .sta (.absoluteY a)
  | .staIzx zz => .store .sta (.indexedIndirect zz)
  | .staIzy zz => .store .sta (.indirectIndexed zz)
  | .stxZp0 zz => .store .stx (.zeroPage zz)
  | .stxZpy zz => .store .stx (.zeroPageY zz)
  | .stxAbs a => .store .stx (.absolute a)
  | .styZp0 zz => .store .sty (.zeroPage zz)
  | .styZpx zz => .store .sty (.zeroPageX zz)
  | .styAbs a => .store .sty (.absolute a)
  | .tax => .single
  | .tay => .single
  | .txa => .single
  | .tya => .single
  | .tsx => .single
  | .txs => .single
  | .pha => .single
  | .php => .single
  | .pla => .single
  | .plp => .single
  | .andImm b => .read .and (.immediate b)
  | .andZp0 zz => .read .and (.memory (.zeroPage zz))
  | .andZpx zz => .read .and (.memory (.zeroPageX zz))
  | .andAbs a => .read .and (.memory (.absolute a))
  | .andAbx a => .read .and (.memory (.absoluteX a))
  | .andAby a => .read .and (.memory (.absoluteY a))
  | .andIzx zz => .read .and (.memory (.indexedIndirect zz))
  | .andIzy zz => .read .and (.memory (.indirectIndexed zz))
  | .oraImm b => .read .ora (.immediate b)
  | .oraZp0 zz => .read .ora (.memory (.zeroPage zz))
  | .oraZpx zz => .read .ora (.memory (.zeroPageX zz))
  | .oraAbs a => .read .ora (.memory (.absolute a))
  | .oraAbx a => .read .ora (.memory (.absoluteX a))
  | .oraAby a => .read .ora (.memory (.absoluteY a))
  | .oraIzx zz => .read .ora (.memory (.indexedIndirect zz))
  | .oraIzy zz => .read .ora (.memory (.indirectIndexed zz))
  | .eorImm b => .read .eor (.immediate b)
  | .eorZp0 zz => .read .eor (.memory (.zeroPage zz))
  | .eorZpx zz => .read .eor (.memory (.zeroPageX zz))
  | .eorAbs a => .read .eor (.memory (.absolute a))
  | .eorAbx a => .read .eor (.memory (.absoluteX a))
  | .eorAby a => .read .eor (.memory (.absoluteY a))
  | .eorIzx zz => .read .eor (.memory (.indexedIndirect zz))
  | .eorIzy zz => .read .eor (.memory (.indirectIndexed zz))
  | .bitZp0 zz => .read .bit (.memory (.zeroPage zz))
  | .bitAbs a => .read .bit (.memory (.absolute a))
  | .aslAcc => .modify .asl .accumulator
  | .aslZp0 zz => .modify .asl (.memory (.zeroPage zz))
  | .aslZpx zz => .modify .asl (.memory (.zeroPageX zz))
  | .aslAbs a => .modify .asl (.memory (.absolute a))
  | .aslAbx a => .modify .asl (.memory (.absoluteX a))
  | .lsrAcc => .modify .lsr .accumulator
  | .lsrZp0 zz => .modify .lsr (.memory (.zeroPage zz))
  | .lsrZpx zz => .modify .lsr (.memory (.zeroPageX zz))
  | .lsrAbs a => .modify .lsr (.memory (.absolute a))
  | .lsrAbx a => .modify .lsr (.memory (.absoluteX a))
  | .rolAcc => .modify .rol .accumulator
  | .rolZp0 zz => .modify .rol (.memory (.zeroPage zz))
  | .rolZpx zz => .modify .rol (.memory (.zeroPageX zz))
  | .rolAbs a => .modify .rol (.memory (.absolute a))
  | .rolAbx a => .modify .rol (.memory (.absoluteX a))
  | .rorAcc => .modify .ror .accumulator
  | .rorZp0 zz => .modify .ror (.memory (.zeroPage zz))
  | .rorZpx zz => .modify .ror (.memory (.zeroPageX zz))
  | .rorAbs a => .modify .ror (.memory (.absolute a))
  | .rorAbx a => .modify .ror (.memory (.absoluteX a))
  | .adcImm b => .read .adc (.immediate b)
  | .adcZp0 zz => .read .adc (.memory (.zeroPage zz))
  | .adcZpx zz => .read .adc (.memory (.zeroPageX zz))
  | .adcAbs a => .read .adc (.memory (.absolute a))
  | .adcAbx a => .read .adc (.memory (.absoluteX a))
  | .adcAby a => .read .adc (.memory (.absoluteY a))
  | .adcIzx zz => .read .adc (.memory (.indexedIndirect zz))
  | .adcIzy zz => .read .adc (.memory (.indirectIndexed zz))
  | .sbcImm b => .read .sbc (.immediate b)
  | .sbcZp0 zz => .read .sbc (.memory (.zeroPage zz))
  | .sbcZpx zz => .read .sbc (.memory (.zeroPageX zz))
  | .sbcAbs a => .read .sbc (.memory (.absolute a))
  | .sbcAbx a => .read .sbc (.memory (.absoluteX a))
  | .sbcAby a => .read .sbc (.memory (.absoluteY a))
  | .sbcIzx zz => .read .sbc (.memory (.indexedIndirect zz))
  | .sbcIzy zz => .read .sbc (.memory (.indirectIndexed zz))
  | .cmpImm b => .read .cmp (.immediate b)
  | .cmpZp0 zz => .read .cmp (.memory (.zeroPage zz))
  | .cmpZpx zz => .read .cmp (.memory (.zeroPageX zz))
  | .cmpAbs a => .read .cmp (.memory (.absolute a))
  | .cmpAbx a => .read .cmp (.memory (.absoluteX a))
  | .cmpAby a => .read .cmp (.memory (.absoluteY a))
  | .cmpIzx zz => .read .cmp (.memory (.indexedIndirect zz))
  | .cmpIzy zz => .read .cmp (.memory (.indirectIndexed zz))
  | .cpxImm b => .read .cpx (.immediate b)
  | .cpxZp0 zz => .read .cpx (.memory (.zeroPage zz))
  | .cpxAbs a => .read .cpx (.memory (.absolute a))
  | .cpyImm b => .read .cpy (.immediate b)
  | .cpyZp0 zz => .read .cpy (.memory (.zeroPage zz))
  | .cpyAbs a => .read .cpy (.memory (.absolute a))
  | .incZp0 zz => .modify .inc (.memory (.zeroPage zz))
  | .incZpx zz => .modify .inc (.memory (.zeroPageX zz))
  | .incAbs a => .modify .inc (.memory (.absolute a))
  | .incAbx a => .modify .inc (.memory (.absoluteX a))
  | .decZp0 zz => .modify .dec (.memory (.zeroPage zz))
  | .decZpx zz => .modify .dec (.memory (.zeroPageX zz))
  | .decAbs a => .modify .dec (.memory (.absolute a))
  | .decAbx a => .modify .dec (.memory (.absoluteX a))
  | .inx => .single
  | .iny => .single
  | .dex => .single
  | .dey => .single
  | .bpl rr => .branch .bpl rr
  | .bmi rr => .branch .bmi rr
  | .bvc rr => .branch .bvc rr
  | .bvs rr => .branch .bvs rr
  | .bcc rr => .branch .bcc rr
  | .bcs rr => .branch .bcs rr
  | .bne rr => .branch .bne rr
  | .beq rr => .branch .beq rr
  | .jmpAbs _ => .single
  | .jmpInd _ => .single
  | .jsr _ => .single
  | .rts => .single
  | .brk => .single
  | .rti => .single
  | .clc => .single
  | .sec => .single
  | .cli => .single
  | .sei => .single
  | .cld => .single
  | .sed => .single
  | .clv => .single
  | .nop => .single

/-! ## The descriptor table -/

/-- The opcode byte (R89). -/
def Instr.opcode : Instr → Byte
  | .ldaImm _ => 0xA9
  | .ldaZp0 _ => 0xA5
  | .ldaZpx _ => 0xB5
  | .ldaAbs _ => 0xAD
  | .ldaAbx _ => 0xBD
  | .ldaAby _ => 0xB9
  | .ldaIzx _ => 0xA1
  | .ldaIzy _ => 0xB1
  | .ldxImm _ => 0xA2
  | .ldxZp0 _ => 0xA6
  | .ldxZpy _ => 0xB6
  | .ldxAbs _ => 0xAE
  | .ldxAby _ => 0xBE
  | .ldyImm _ => 0xA0
  | .ldyZp0 _ => 0xA4
  | .ldyZpx _ => 0xB4
  | .ldyAbs _ => 0xAC
  | .ldyAbx _ => 0xBC
  | .staZp0 _ => 0x85
  | .staZpx _ => 0x95
  | .staAbs _ => 0x8D
  | .staAbx _ => 0x9D
  | .staAby _ => 0x99
  | .staIzx _ => 0x81
  | .staIzy _ => 0x91
  | .stxZp0 _ => 0x86
  | .stxZpy _ => 0x96
  | .stxAbs _ => 0x8E
  | .styZp0 _ => 0x84
  | .styZpx _ => 0x94
  | .styAbs _ => 0x8C
  | .tax => 0xAA
  | .tay => 0xA8
  | .txa => 0x8A
  | .tya => 0x98
  | .tsx => 0xBA
  | .txs => 0x9A
  | .pha => 0x48
  | .php => 0x08
  | .pla => 0x68
  | .plp => 0x28
  | .andImm _ => 0x29
  | .andZp0 _ => 0x25
  | .andZpx _ => 0x35
  | .andAbs _ => 0x2D
  | .andAbx _ => 0x3D
  | .andAby _ => 0x39
  | .andIzx _ => 0x21
  | .andIzy _ => 0x31
  | .oraImm _ => 0x09
  | .oraZp0 _ => 0x05
  | .oraZpx _ => 0x15
  | .oraAbs _ => 0x0D
  | .oraAbx _ => 0x1D
  | .oraAby _ => 0x19
  | .oraIzx _ => 0x01
  | .oraIzy _ => 0x11
  | .eorImm _ => 0x49
  | .eorZp0 _ => 0x45
  | .eorZpx _ => 0x55
  | .eorAbs _ => 0x4D
  | .eorAbx _ => 0x5D
  | .eorAby _ => 0x59
  | .eorIzx _ => 0x41
  | .eorIzy _ => 0x51
  | .bitZp0 _ => 0x24
  | .bitAbs _ => 0x2C
  | .aslAcc => 0x0A
  | .aslZp0 _ => 0x06
  | .aslZpx _ => 0x16
  | .aslAbs _ => 0x0E
  | .aslAbx _ => 0x1E
  | .lsrAcc => 0x4A
  | .lsrZp0 _ => 0x46
  | .lsrZpx _ => 0x56
  | .lsrAbs _ => 0x4E
  | .lsrAbx _ => 0x5E
  | .rolAcc => 0x2A
  | .rolZp0 _ => 0x26
  | .rolZpx _ => 0x36
  | .rolAbs _ => 0x2E
  | .rolAbx _ => 0x3E
  | .rorAcc => 0x6A
  | .rorZp0 _ => 0x66
  | .rorZpx _ => 0x76
  | .rorAbs _ => 0x6E
  | .rorAbx _ => 0x7E
  | .adcImm _ => 0x69
  | .adcZp0 _ => 0x65
  | .adcZpx _ => 0x75
  | .adcAbs _ => 0x6D
  | .adcAbx _ => 0x7D
  | .adcAby _ => 0x79
  | .adcIzx _ => 0x61
  | .adcIzy _ => 0x71
  | .sbcImm _ => 0xE9
  | .sbcZp0 _ => 0xE5
  | .sbcZpx _ => 0xF5
  | .sbcAbs _ => 0xED
  | .sbcAbx _ => 0xFD
  | .sbcAby _ => 0xF9
  | .sbcIzx _ => 0xE1
  | .sbcIzy _ => 0xF1
  | .cmpImm _ => 0xC9
  | .cmpZp0 _ => 0xC5
  | .cmpZpx _ => 0xD5
  | .cmpAbs _ => 0xCD
  | .cmpAbx _ => 0xDD
  | .cmpAby _ => 0xD9
  | .cmpIzx _ => 0xC1
  | .cmpIzy _ => 0xD1
  | .cpxImm _ => 0xE0
  | .cpxZp0 _ => 0xE4
  | .cpxAbs _ => 0xEC
  | .cpyImm _ => 0xC0
  | .cpyZp0 _ => 0xC4
  | .cpyAbs _ => 0xCC
  | .incZp0 _ => 0xE6
  | .incZpx _ => 0xF6
  | .incAbs _ => 0xEE
  | .incAbx _ => 0xFE
  | .decZp0 _ => 0xC6
  | .decZpx _ => 0xD6
  | .decAbs _ => 0xCE
  | .decAbx _ => 0xDE
  | .inx => 0xE8
  | .iny => 0xC8
  | .dex => 0xCA
  | .dey => 0x88
  | .bpl _ => 0x10
  | .bmi _ => 0x30
  | .bvc _ => 0x50
  | .bvs _ => 0x70
  | .bcc _ => 0x90
  | .bcs _ => 0xB0
  | .bne _ => 0xD0
  | .beq _ => 0xF0
  | .jmpAbs _ => 0x4C
  | .jmpInd _ => 0x6C
  | .jsr _ => 0x20
  | .rts => 0x60
  | .brk => 0x00
  | .rti => 0x40
  | .clc => 0x18
  | .sec => 0x38
  | .cli => 0x58
  | .sei => 0x78
  | .cld => 0xD8
  | .sed => 0xF8
  | .clv => 0xB8
  | .nop => 0xEA

/-- The addressing mode (R88, R89). -/
def Instr.mode : Instr → Mode
  | .ldaImm _ => .immediate
  | .ldaZp0 _ => .zeroPage
  | .ldaZpx _ => .zeroPageX
  | .ldaAbs _ => .absolute
  | .ldaAbx _ => .absoluteX
  | .ldaAby _ => .absoluteY
  | .ldaIzx _ => .indexedIndirect
  | .ldaIzy _ => .indirectIndexed
  | .ldxImm _ => .immediate
  | .ldxZp0 _ => .zeroPage
  | .ldxZpy _ => .zeroPageY
  | .ldxAbs _ => .absolute
  | .ldxAby _ => .absoluteY
  | .ldyImm _ => .immediate
  | .ldyZp0 _ => .zeroPage
  | .ldyZpx _ => .zeroPageX
  | .ldyAbs _ => .absolute
  | .ldyAbx _ => .absoluteX
  | .staZp0 _ => .zeroPage
  | .staZpx _ => .zeroPageX
  | .staAbs _ => .absolute
  | .staAbx _ => .absoluteX
  | .staAby _ => .absoluteY
  | .staIzx _ => .indexedIndirect
  | .staIzy _ => .indirectIndexed
  | .stxZp0 _ => .zeroPage
  | .stxZpy _ => .zeroPageY
  | .stxAbs _ => .absolute
  | .styZp0 _ => .zeroPage
  | .styZpx _ => .zeroPageX
  | .styAbs _ => .absolute
  | .tax => .implied
  | .tay => .implied
  | .txa => .implied
  | .tya => .implied
  | .tsx => .implied
  | .txs => .implied
  | .pha => .implied
  | .php => .implied
  | .pla => .implied
  | .plp => .implied
  | .andImm _ => .immediate
  | .andZp0 _ => .zeroPage
  | .andZpx _ => .zeroPageX
  | .andAbs _ => .absolute
  | .andAbx _ => .absoluteX
  | .andAby _ => .absoluteY
  | .andIzx _ => .indexedIndirect
  | .andIzy _ => .indirectIndexed
  | .oraImm _ => .immediate
  | .oraZp0 _ => .zeroPage
  | .oraZpx _ => .zeroPageX
  | .oraAbs _ => .absolute
  | .oraAbx _ => .absoluteX
  | .oraAby _ => .absoluteY
  | .oraIzx _ => .indexedIndirect
  | .oraIzy _ => .indirectIndexed
  | .eorImm _ => .immediate
  | .eorZp0 _ => .zeroPage
  | .eorZpx _ => .zeroPageX
  | .eorAbs _ => .absolute
  | .eorAbx _ => .absoluteX
  | .eorAby _ => .absoluteY
  | .eorIzx _ => .indexedIndirect
  | .eorIzy _ => .indirectIndexed
  | .bitZp0 _ => .zeroPage
  | .bitAbs _ => .absolute
  | .aslAcc => .accumulator
  | .aslZp0 _ => .zeroPage
  | .aslZpx _ => .zeroPageX
  | .aslAbs _ => .absolute
  | .aslAbx _ => .absoluteX
  | .lsrAcc => .accumulator
  | .lsrZp0 _ => .zeroPage
  | .lsrZpx _ => .zeroPageX
  | .lsrAbs _ => .absolute
  | .lsrAbx _ => .absoluteX
  | .rolAcc => .accumulator
  | .rolZp0 _ => .zeroPage
  | .rolZpx _ => .zeroPageX
  | .rolAbs _ => .absolute
  | .rolAbx _ => .absoluteX
  | .rorAcc => .accumulator
  | .rorZp0 _ => .zeroPage
  | .rorZpx _ => .zeroPageX
  | .rorAbs _ => .absolute
  | .rorAbx _ => .absoluteX
  | .adcImm _ => .immediate
  | .adcZp0 _ => .zeroPage
  | .adcZpx _ => .zeroPageX
  | .adcAbs _ => .absolute
  | .adcAbx _ => .absoluteX
  | .adcAby _ => .absoluteY
  | .adcIzx _ => .indexedIndirect
  | .adcIzy _ => .indirectIndexed
  | .sbcImm _ => .immediate
  | .sbcZp0 _ => .zeroPage
  | .sbcZpx _ => .zeroPageX
  | .sbcAbs _ => .absolute
  | .sbcAbx _ => .absoluteX
  | .sbcAby _ => .absoluteY
  | .sbcIzx _ => .indexedIndirect
  | .sbcIzy _ => .indirectIndexed
  | .cmpImm _ => .immediate
  | .cmpZp0 _ => .zeroPage
  | .cmpZpx _ => .zeroPageX
  | .cmpAbs _ => .absolute
  | .cmpAbx _ => .absoluteX
  | .cmpAby _ => .absoluteY
  | .cmpIzx _ => .indexedIndirect
  | .cmpIzy _ => .indirectIndexed
  | .cpxImm _ => .immediate
  | .cpxZp0 _ => .zeroPage
  | .cpxAbs _ => .absolute
  | .cpyImm _ => .immediate
  | .cpyZp0 _ => .zeroPage
  | .cpyAbs _ => .absolute
  | .incZp0 _ => .zeroPage
  | .incZpx _ => .zeroPageX
  | .incAbs _ => .absolute
  | .incAbx _ => .absoluteX
  | .decZp0 _ => .zeroPage
  | .decZpx _ => .zeroPageX
  | .decAbs _ => .absolute
  | .decAbx _ => .absoluteX
  | .inx => .implied
  | .iny => .implied
  | .dex => .implied
  | .dey => .implied
  | .bpl _ => .relative
  | .bmi _ => .relative
  | .bvc _ => .relative
  | .bvs _ => .relative
  | .bcc _ => .relative
  | .bcs _ => .relative
  | .bne _ => .relative
  | .beq _ => .relative
  | .jmpAbs _ => .absolute
  | .jmpInd _ => .indirect
  | .jsr _ => .absolute
  | .rts => .implied
  | .brk => .implied
  | .rti => .implied
  | .clc => .implied
  | .sec => .implied
  | .cli => .implied
  | .sei => .implied
  | .cld => .implied
  | .sed => .implied
  | .clv => .implied
  | .nop => .implied

/-- The base cycle cost (R103, opcode_table.json `base_cycles`). -/
def Instr.baseCycles : Instr → Nat
  | .ldaImm _ => 2
  | .ldaZp0 _ => 3
  | .ldaZpx _ => 4
  | .ldaAbs _ => 4
  | .ldaAbx _ => 4
  | .ldaAby _ => 4
  | .ldaIzx _ => 6
  | .ldaIzy _ => 5
  | .ldxImm _ => 2
  | .ldxZp0 _ => 3
  | .ldxZpy _ => 4
  | .ldxAbs _ => 4
  | .ldxAby _ => 4
  | .ldyImm _ => 2
  | .ldyZp0 _ => 3
  | .ldyZpx _ => 4
  | .ldyAbs _ => 4
  | .ldyAbx _ => 4
  | .staZp0 _ => 3
  | .staZpx _ => 4
  | .staAbs _ => 4
  | .staAbx _ => 5
  | .staAby _ => 5
  | .staIzx _ => 6
  | .staIzy _ => 6
  | .stxZp0 _ => 3
  | .stxZpy _ => 4
  | .stxAbs _ => 4
  | .styZp0 _ => 3
  | .styZpx _ => 4
  | .styAbs _ => 4
  | .tax => 2
  | .tay => 2
  | .txa => 2
  | .tya => 2
  | .tsx => 2
  | .txs => 2
  | .pha => 3
  | .php => 3
  | .pla => 4
  | .plp => 4
  | .andImm _ => 2
  | .andZp0 _ => 3
  | .andZpx _ => 4
  | .andAbs _ => 4
  | .andAbx _ => 4
  | .andAby _ => 4
  | .andIzx _ => 6
  | .andIzy _ => 5
  | .oraImm _ => 2
  | .oraZp0 _ => 3
  | .oraZpx _ => 4
  | .oraAbs _ => 4
  | .oraAbx _ => 4
  | .oraAby _ => 4
  | .oraIzx _ => 6
  | .oraIzy _ => 5
  | .eorImm _ => 2
  | .eorZp0 _ => 3
  | .eorZpx _ => 4
  | .eorAbs _ => 4
  | .eorAbx _ => 4
  | .eorAby _ => 4
  | .eorIzx _ => 6
  | .eorIzy _ => 5
  | .bitZp0 _ => 3
  | .bitAbs _ => 4
  | .aslAcc => 2
  | .aslZp0 _ => 5
  | .aslZpx _ => 6
  | .aslAbs _ => 6
  | .aslAbx _ => 7
  | .lsrAcc => 2
  | .lsrZp0 _ => 5
  | .lsrZpx _ => 6
  | .lsrAbs _ => 6
  | .lsrAbx _ => 7
  | .rolAcc => 2
  | .rolZp0 _ => 5
  | .rolZpx _ => 6
  | .rolAbs _ => 6
  | .rolAbx _ => 7
  | .rorAcc => 2
  | .rorZp0 _ => 5
  | .rorZpx _ => 6
  | .rorAbs _ => 6
  | .rorAbx _ => 7
  | .adcImm _ => 2
  | .adcZp0 _ => 3
  | .adcZpx _ => 4
  | .adcAbs _ => 4
  | .adcAbx _ => 4
  | .adcAby _ => 4
  | .adcIzx _ => 6
  | .adcIzy _ => 5
  | .sbcImm _ => 2
  | .sbcZp0 _ => 3
  | .sbcZpx _ => 4
  | .sbcAbs _ => 4
  | .sbcAbx _ => 4
  | .sbcAby _ => 4
  | .sbcIzx _ => 6
  | .sbcIzy _ => 5
  | .cmpImm _ => 2
  | .cmpZp0 _ => 3
  | .cmpZpx _ => 4
  | .cmpAbs _ => 4
  | .cmpAbx _ => 4
  | .cmpAby _ => 4
  | .cmpIzx _ => 6
  | .cmpIzy _ => 5
  | .cpxImm _ => 2
  | .cpxZp0 _ => 3
  | .cpxAbs _ => 4
  | .cpyImm _ => 2
  | .cpyZp0 _ => 3
  | .cpyAbs _ => 4
  | .incZp0 _ => 5
  | .incZpx _ => 6
  | .incAbs _ => 6
  | .incAbx _ => 7
  | .decZp0 _ => 5
  | .decZpx _ => 6
  | .decAbs _ => 6
  | .decAbx _ => 7
  | .inx => 2
  | .iny => 2
  | .dex => 2
  | .dey => 2
  | .bpl _ => 2
  | .bmi _ => 2
  | .bvc _ => 2
  | .bvs _ => 2
  | .bcc _ => 2
  | .bcs _ => 2
  | .bne _ => 2
  | .beq _ => 2
  | .jmpAbs _ => 3
  | .jmpInd _ => 5
  | .jsr _ => 6
  | .rts => 6
  | .brk => 7
  | .rti => 6
  | .clc => 2
  | .sec => 2
  | .cli => 2
  | .sei => 2
  | .cld => 2
  | .sed => 2
  | .clv => 2
  | .nop => 2

/-- Whether a page crossing costs one more cycle (R104, opcode_table.json `page_cross_extra_cycle`): the reads in
absolute-X, absolute-Y and indirect-indexed modes. -/
def Instr.pageExtra (i : Instr) : Bool :=
  match i.view with
  | .read _ (.memory (.absoluteX _)) => true
  | .read _ (.memory (.absoluteY _)) => true
  | .read _ (.memory (.indirectIndexed _)) => true
  | _ => false

/-! ## The decoder -/

/-- What the opcode alone says: an instruction, or how to build it from one operand byte or from a word (R91). -/
inductive Entry where
  | one (i : Instr)
  | two (build : Byte → Instr)
  | three (build : Word → Instr)

/-! The opcode map of R89, one definition per line of it: the high nibble names the line, the low nibble the column. -/

/-- Opcodes 0x00 to 0x0F. -/
def mapLine0 (column : Nat) : Option Entry :=
  match column with
  | 0x0 => some (.one .brk)
  | 0x1 => some (.two .oraIzx)
  | 0x5 => some (.two .oraZp0)
  | 0x6 => some (.two .aslZp0)
  | 0x8 => some (.one .php)
  | 0x9 => some (.two .oraImm)
  | 0xA => some (.one .aslAcc)
  | 0xD => some (.three .oraAbs)
  | 0xE => some (.three .aslAbs)
  | _ => none

/-- Opcodes 0x10 to 0x1F. -/
def mapLine1 (column : Nat) : Option Entry :=
  match column with
  | 0x0 => some (.two .bpl)
  | 0x1 => some (.two .oraIzy)
  | 0x5 => some (.two .oraZpx)
  | 0x6 => some (.two .aslZpx)
  | 0x8 => some (.one .clc)
  | 0x9 => some (.three .oraAby)
  | 0xD => some (.three .oraAbx)
  | 0xE => some (.three .aslAbx)
  | _ => none

/-- Opcodes 0x20 to 0x2F. -/
def mapLine2 (column : Nat) : Option Entry :=
  match column with
  | 0x0 => some (.three .jsr)
  | 0x1 => some (.two .andIzx)
  | 0x4 => some (.two .bitZp0)
  | 0x5 => some (.two .andZp0)
  | 0x6 => some (.two .rolZp0)
  | 0x8 => some (.one .plp)
  | 0x9 => some (.two .andImm)
  | 0xA => some (.one .rolAcc)
  | 0xC => some (.three .bitAbs)
  | 0xD => some (.three .andAbs)
  | 0xE => some (.three .rolAbs)
  | _ => none

/-- Opcodes 0x30 to 0x3F. -/
def mapLine3 (column : Nat) : Option Entry :=
  match column with
  | 0x0 => some (.two .bmi)
  | 0x1 => some (.two .andIzy)
  | 0x5 => some (.two .andZpx)
  | 0x6 => some (.two .rolZpx)
  | 0x8 => some (.one .sec)
  | 0x9 => some (.three .andAby)
  | 0xD => some (.three .andAbx)
  | 0xE => some (.three .rolAbx)
  | _ => none

/-- Opcodes 0x40 to 0x4F. -/
def mapLine4 (column : Nat) : Option Entry :=
  match column with
  | 0x0 => some (.one .rti)
  | 0x1 => some (.two .eorIzx)
  | 0x5 => some (.two .eorZp0)
  | 0x6 => some (.two .lsrZp0)
  | 0x8 => some (.one .pha)
  | 0x9 => some (.two .eorImm)
  | 0xA => some (.one .lsrAcc)
  | 0xC => some (.three .jmpAbs)
  | 0xD => some (.three .eorAbs)
  | 0xE => some (.three .lsrAbs)
  | _ => none

/-- Opcodes 0x50 to 0x5F. -/
def mapLine5 (column : Nat) : Option Entry :=
  match column with
  | 0x0 => some (.two .bvc)
  | 0x1 => some (.two .eorIzy)
  | 0x5 => some (.two .eorZpx)
  | 0x6 => some (.two .lsrZpx)
  | 0x8 => some (.one .cli)
  | 0x9 => some (.three .eorAby)
  | 0xD => some (.three .eorAbx)
  | 0xE => some (.three .lsrAbx)
  | _ => none

/-- Opcodes 0x60 to 0x6F. -/
def mapLine6 (column : Nat) : Option Entry :=
  match column with
  | 0x0 => some (.one .rts)
  | 0x1 => some (.two .adcIzx)
  | 0x5 => some (.two .adcZp0)
  | 0x6 => some (.two .rorZp0)
  | 0x8 => some (.one .pla)
  | 0x9 => some (.two .adcImm)
  | 0xA => some (.one .rorAcc)
  | 0xC => some (.three .jmpInd)
  | 0xD => some (.three .adcAbs)
  | 0xE => some (.three .rorAbs)
  | _ => none

/-- Opcodes 0x70 to 0x7F. -/
def mapLine7 (column : Nat) : Option Entry :=
  match column with
  | 0x0 => some (.two .bvs)
  | 0x1 => some (.two .adcIzy)
  | 0x5 => some (.two .adcZpx)
  | 0x6 => some (.two .rorZpx)
  | 0x8 => some (.one .sei)
  | 0x9 => some (.three .adcAby)
  | 0xD => some (.three .adcAbx)
  | 0xE => some (.three .rorAbx)
  | _ => none

/-- Opcodes 0x80 to 0x8F. -/
def mapLine8 (column : Nat) : Option Entry :=
  match column with
  | 0x1 => some (.two .staIzx)
  | 0x4 => some (.two .styZp0)
  | 0x5 => some (.two .staZp0)
  | 0x6 => some (.two .stxZp0)
  | 0x8 => some (.one .dey)
  | 0xA => some (.one .txa)
  | 0xC => some (.three .styAbs)
  | 0xD => some (.three .staAbs)
  | 0xE => some (.three .stxAbs)
  | _ => none

/-- Opcodes 0x90 to 0x9F. -/
def mapLine9 (column : Nat) : Option Entry :=
  match column with
  | 0x0 => some (.two .bcc)
  | 0x1 => some (.two .staIzy)
  | 0x4 => some (.two .styZpx)
  | 0x5 => some (.two .staZpx)
  | 0x6 => some (.two .stxZpy)
  | 0x8 => some (.one .tya)
  | 0x9 => some (.three .staAby)
  | 0xA => some (.one .txs)
  | 0xD => some (.three .staAbx)
  | _ => none

/-- Opcodes 0xA0 to 0xAF. -/
def mapLineA (column : Nat) : Option Entry :=
  match column with
  | 0x0 => some (.two .ldyImm)
  | 0x1 => some (.two .ldaIzx)
  | 0x2 => some (.two .ldxImm)
  | 0x4 => some (.two .ldyZp0)
  | 0x5 => some (.two .ldaZp0)
  | 0x6 => some (.two .ldxZp0)
  | 0x8 => some (.one .tay)
  | 0x9 => some (.two .ldaImm)
  | 0xA => some (.one .tax)
  | 0xC => some (.three .ldyAbs)
  | 0xD => some (.three .ldaAbs)
  | 0xE => some (.three .ldxAbs)
  | _ => none

/-- Opcodes 0xB0 to 0xBF. -/
def mapLineB (column : Nat) : Option Entry :=
  match column with
  | 0x0 => some (.two .bcs)
  | 0x1 => some (.two .ldaIzy)
  | 0x4 => some (.two .ldyZpx)
  | 0x5 => some (.two .ldaZpx)
  | 0x6 => some (.two .ldxZpy)
  | 0x8 => some (.one .clv)
  | 0x9 => some (.three .ldaAby)
  | 0xA => some (.one .tsx)
  | 0xC => some (.three .ldyAbx)
  | 0xD => some (.three .ldaAbx)
  | 0xE => some (.three .ldxAby)
  | _ => none

/-- Opcodes 0xC0 to 0xCF. -/
def mapLineC (column : Nat) : Option Entry :=
  match column with
  | 0x0 => some (.two .cpyImm)
  | 0x1 => some (.two .cmpIzx)
  | 0x4 => some (.two .cpyZp0)
  | 0x5 => some (.two .cmpZp0)
  | 0x6 => some (.two .decZp0)
  | 0x8 => some (.one .iny)
  | 0x9 => some (.two .cmpImm)
  | 0xA => some (.one .dex)
  | 0xC => some (.three .cpyAbs)
  | 0xD => some (.three .cmpAbs)
  | 0xE => some (.three .decAbs)
  | _ => none

/-- Opcodes 0xD0 to 0xDF. -/
def mapLineD (column : Nat) : Option Entry :=
  match column with
  | 0x0 => some (.two .bne)
  | 0x1 => some (.two .cmpIzy)
  | 0x5 => some (.two .cmpZpx)
  | 0x6 => some (.two .decZpx)
  | 0x8 => some (.one .cld)
  | 0x9 => some (.three .cmpAby)
  | 0xD => some (.three .cmpAbx)
  | 0xE => some (.three .decAbx)
  | _ => none

/-- Opcodes 0xE0 to 0xEF. -/
def mapLineE (column : Nat) : Option Entry :=
  match column with
  | 0x0 => some (.two .cpxImm)
  | 0x1 => some (.two .sbcIzx)
  | 0x4 => some (.two .cpxZp0)
  | 0x5 => some (.two .sbcZp0)
  | 0x6 => some (.two .incZp0)
  | 0x8 => some (.one .inx)
  | 0x9 => some (.two .sbcImm)
  | 0xA => some (.one .nop)
  | 0xC => some (.three .cpxAbs)
  | 0xD => some (.three .sbcAbs)
  | 0xE => some (.three .incAbs)
  | _ => none

/-- Opcodes 0xF0 to 0xFF. -/
def mapLineF (column : Nat) : Option Entry :=
  match column with
  | 0x0 => some (.two .beq)
  | 0x1 => some (.two .sbcIzy)
  | 0x5 => some (.two .sbcZpx)
  | 0x6 => some (.two .incZpx)
  | 0x8 => some (.one .sed)
  | 0x9 => some (.three .sbcAby)
  | 0xD => some (.three .sbcAbx)
  | 0xE => some (.three .incAbx)
  | _ => none

/-- The line of the opcode map a high nibble names. -/
def mapLine (line column : Nat) : Option Entry :=
  match line with
  | 0x0 => mapLine0 column
  | 0x1 => mapLine1 column
  | 0x2 => mapLine2 column
  | 0x3 => mapLine3 column
  | 0x4 => mapLine4 column
  | 0x5 => mapLine5 column
  | 0x6 => mapLine6 column
  | 0x7 => mapLine7 column
  | 0x8 => mapLine8 column
  | 0x9 => mapLine9 column
  | 0xA => mapLineA column
  | 0xB => mapLineB column
  | 0xC => mapLineC column
  | 0xD => mapLineD column
  | 0xE => mapLineE column
  | 0xF => mapLineF column
  | _ => none

/-- The opcode map; none marks an undefined opcode (R89, R93). -/
def lookup (op : Byte) : Option Entry := mapLine (op.toNat / 16) (op.toNat % 16)

/-- Why a byte string is no instruction. -/
inductive DecodeError where
  | undefinedOpcode (op : Byte)   -- no row of the table (R93)
  | truncated                     -- a byte of the instruction is missing
  deriving DecidableEq, Repr

/-- Decode the instruction at the head of a byte string, and give the bytes after it. -/
def decode : List Byte → Except DecodeError (Instr × List Byte)
  | [] => .error .truncated
  | op :: rest =>
    match lookup op with
    | none => .error (.undefinedOpcode op)
    | some (.one i) => .ok (i, rest)
    | some (.two build) =>
      match rest with
      | b :: rest => .ok (build b, rest)
      | [] => .error .truncated
    | some (.three build) =>
      match rest with
      | lo :: hi :: rest => .ok (build (word16 hi lo), rest)
      | _ => .error .truncated

/-! ## The encoder -/

/-- The operand bytes, low byte first (R86, R87). -/
def Instr.operandBytes : Instr → List Byte
  | .ldaImm b => [b]
  | .ldaZp0 zz => [zz]
  | .ldaZpx zz => [zz]
  | .ldaAbs a => [lowByte a, highByte a]
  | .ldaAbx a => [lowByte a, highByte a]
  | .ldaAby a => [lowByte a, highByte a]
  | .ldaIzx zz => [zz]
  | .ldaIzy zz => [zz]
  | .ldxImm b => [b]
  | .ldxZp0 zz => [zz]
  | .ldxZpy zz => [zz]
  | .ldxAbs a => [lowByte a, highByte a]
  | .ldxAby a => [lowByte a, highByte a]
  | .ldyImm b => [b]
  | .ldyZp0 zz => [zz]
  | .ldyZpx zz => [zz]
  | .ldyAbs a => [lowByte a, highByte a]
  | .ldyAbx a => [lowByte a, highByte a]
  | .staZp0 zz => [zz]
  | .staZpx zz => [zz]
  | .staAbs a => [lowByte a, highByte a]
  | .staAbx a => [lowByte a, highByte a]
  | .staAby a => [lowByte a, highByte a]
  | .staIzx zz => [zz]
  | .staIzy zz => [zz]
  | .stxZp0 zz => [zz]
  | .stxZpy zz => [zz]
  | .stxAbs a => [lowByte a, highByte a]
  | .styZp0 zz => [zz]
  | .styZpx zz => [zz]
  | .styAbs a => [lowByte a, highByte a]
  | .tax => []
  | .tay => []
  | .txa => []
  | .tya => []
  | .tsx => []
  | .txs => []
  | .pha => []
  | .php => []
  | .pla => []
  | .plp => []
  | .andImm b => [b]
  | .andZp0 zz => [zz]
  | .andZpx zz => [zz]
  | .andAbs a => [lowByte a, highByte a]
  | .andAbx a => [lowByte a, highByte a]
  | .andAby a => [lowByte a, highByte a]
  | .andIzx zz => [zz]
  | .andIzy zz => [zz]
  | .oraImm b => [b]
  | .oraZp0 zz => [zz]
  | .oraZpx zz => [zz]
  | .oraAbs a => [lowByte a, highByte a]
  | .oraAbx a => [lowByte a, highByte a]
  | .oraAby a => [lowByte a, highByte a]
  | .oraIzx zz => [zz]
  | .oraIzy zz => [zz]
  | .eorImm b => [b]
  | .eorZp0 zz => [zz]
  | .eorZpx zz => [zz]
  | .eorAbs a => [lowByte a, highByte a]
  | .eorAbx a => [lowByte a, highByte a]
  | .eorAby a => [lowByte a, highByte a]
  | .eorIzx zz => [zz]
  | .eorIzy zz => [zz]
  | .bitZp0 zz => [zz]
  | .bitAbs a => [lowByte a, highByte a]
  | .aslAcc => []
  | .aslZp0 zz => [zz]
  | .aslZpx zz => [zz]
  | .aslAbs a => [lowByte a, highByte a]
  | .aslAbx a => [lowByte a, highByte a]
  | .lsrAcc => []
  | .lsrZp0 zz => [zz]
  | .lsrZpx zz => [zz]
  | .lsrAbs a => [lowByte a, highByte a]
  | .lsrAbx a => [lowByte a, highByte a]
  | .rolAcc => []
  | .rolZp0 zz => [zz]
  | .rolZpx zz => [zz]
  | .rolAbs a => [lowByte a, highByte a]
  | .rolAbx a => [lowByte a, highByte a]
  | .rorAcc => []
  | .rorZp0 zz => [zz]
  | .rorZpx zz => [zz]
  | .rorAbs a => [lowByte a, highByte a]
  | .rorAbx a => [lowByte a, highByte a]
  | .adcImm b => [b]
  | .adcZp0 zz => [zz]
  | .adcZpx zz => [zz]
  | .adcAbs a => [lowByte a, highByte a]
  | .adcAbx a => [lowByte a, highByte a]
  | .adcAby a => [lowByte a, highByte a]
  | .adcIzx zz => [zz]
  | .adcIzy zz => [zz]
  | .sbcImm b => [b]
  | .sbcZp0 zz => [zz]
  | .sbcZpx zz => [zz]
  | .sbcAbs a => [lowByte a, highByte a]
  | .sbcAbx a => [lowByte a, highByte a]
  | .sbcAby a => [lowByte a, highByte a]
  | .sbcIzx zz => [zz]
  | .sbcIzy zz => [zz]
  | .cmpImm b => [b]
  | .cmpZp0 zz => [zz]
  | .cmpZpx zz => [zz]
  | .cmpAbs a => [lowByte a, highByte a]
  | .cmpAbx a => [lowByte a, highByte a]
  | .cmpAby a => [lowByte a, highByte a]
  | .cmpIzx zz => [zz]
  | .cmpIzy zz => [zz]
  | .cpxImm b => [b]
  | .cpxZp0 zz => [zz]
  | .cpxAbs a => [lowByte a, highByte a]
  | .cpyImm b => [b]
  | .cpyZp0 zz => [zz]
  | .cpyAbs a => [lowByte a, highByte a]
  | .incZp0 zz => [zz]
  | .incZpx zz => [zz]
  | .incAbs a => [lowByte a, highByte a]
  | .incAbx a => [lowByte a, highByte a]
  | .decZp0 zz => [zz]
  | .decZpx zz => [zz]
  | .decAbs a => [lowByte a, highByte a]
  | .decAbx a => [lowByte a, highByte a]
  | .inx => []
  | .iny => []
  | .dex => []
  | .dey => []
  | .bpl rr => [rr]
  | .bmi rr => [rr]
  | .bvc rr => [rr]
  | .bvs rr => [rr]
  | .bcc rr => [rr]
  | .bcs rr => [rr]
  | .bne rr => [rr]
  | .beq rr => [rr]
  | .jmpAbs a => [lowByte a, highByte a]
  | .jmpInd a => [lowByte a, highByte a]
  | .jsr a => [lowByte a, highByte a]
  | .rts => []
  | .brk => []
  | .rti => []
  | .clc => []
  | .sec => []
  | .cli => []
  | .sei => []
  | .cld => []
  | .sed => []
  | .clv => []
  | .nop => []

/-- The bytes of an instruction, in increasing address order (R85, R86). -/
def encode (i : Instr) : List Byte := i.opcode :: i.operandBytes

/-! ## The opcode table's numbering of bits -/

/-- Byte `k` of an instruction whose bits are `w`: bit 0 is the least significant bit of the first byte. -/
def tableByte (w k : Nat) : Byte := BitVec.ofNat 8 (w >>> (8 * k))

/-- The instruction the decoder reads from one whose `nbits` bits are `w` and whose bits above are 0. -/
def decodeTableWord (nbits w : Nat) : Option Instr :=
  let u := w % 2 ^ nbits
  match decode [tableByte u 0, tableByte u 1, tableByte u 2] with
  | .ok (i, _) => some i
  | .error _ => none

end Sys2Proof
end

