-- ==== Sys2Proof/Machine/State.lean ====
section
/-! DEFINITION. The state of the machine as plain data: the processor core, the picture core, the shared interrupt flag,
the two external buses, the parameters of spec/00_scope.md R6, the host's schedule, and the reasons a step can stop. -/

namespace Sys2Proof.Machine

/-- The stored flags of the status register P (R23). Bit 5, U, is the constant 1 and needs no field (R29, log 13). -/
structure Flags where
  n : Bool  -- negative, bit 7 (R31)
  v : Bool  -- overflow, bit 6 (R30)
  b : Bool  -- break, bit 4 (R28)
  d : Bool  -- decimal, bit 3 (R27)
  i : Bool  -- interrupt-disable, bit 2 (R26)
  z : Bool  -- zero, bit 1 (R25)
  c : Bool  -- carry, bit 0 (R24)
  deriving DecidableEq, Repr

/-- The processor core (R20 to R33). -/
structure Cpu where
  a : Byte            -- accumulator (R20)
  x : Byte            -- index X (R20)
  y : Byte            -- index Y (R20)
  sp : Byte           -- stack pointer (R22)
  p : Flags           -- status (R23)
  pc : Word           -- program counter (R21)
  cycles : Nat        -- the countdown (R32)
  resetDone : Bool    -- cpu_reset_done (R33)
  deriving DecidableEq, Repr

/-- Object attribute memory (R40): the bytes written since the last PPU reset, by index, and the number of the draw every
other byte is taken from (R51, log 6). -/
structure Oam where
  cells : List Host.Cell
  epoch : Nat
  deriving DecidableEq, Repr

/-- The picture core (R37 to R43, R45 to R50). -/
structure Ppu where
  ctrl : Byte               -- R37
  mask : Byte               -- R38
  vblank : Bool             -- status bit 7 (R39)
  sprite0Hit : Bool         -- status bit 6 (R39)
  spriteOverflow : Bool     -- status bit 5 (R39)
  oamAddr : Byte            -- R40
  oam : Oam                 -- R40
  w : Bool                  -- the two-write latch (R41)
  v : BitVec 15             -- the working address (R42)
  t : BitVec 15             -- the temporary address (R42)
  x : BitVec 3              -- fine X (R43)
  nmiOutputPrev : Bool      -- R45
  readBuffer : Byte         -- R46
  bgNextNt : Byte           -- R47
  bgNextAt : BitVec 2       -- R47
  bgNextLo : Byte           -- R47
  bgNextHi : Byte           -- R47
  shPtLo : BitVec 16        -- R48
  shPtHi : BitVec 16        -- R48
  shAtLo : BitVec 16        -- R48
  shAtHi : BitVec 16        -- R48
  scanline : Int            -- -1..260 (R49)
  dot : Nat                 -- 0..340 (R49)
  resetDone : Bool          -- ppu_reset_done (R50)
  deriving DecidableEq, Repr

/-- What is assumed of an external bus over a range of addresses: the named premise of R63 (log 3). -/
inductive BusKind where
  | ram   -- a read returns the last byte written there and has no effect
  | rom   -- a read returns the byte placed there, a write has no effect
  | free  -- nothing is assumed: each answer is a free function of the address and of the history of accesses
  deriving DecidableEq, Repr

/-- One range of addresses, both ends included, and what is assumed of it. -/
structure BusRegion where
  first : Nat
  last : Nat
  kind : BusKind
  deriving DecidableEq, Repr

/-- What a run assumes of an external bus, a parameter of the model (R52, R63, R70, log 3): the premises by region, and the
bytes of the regions assumed to be RAM or ROM, in canonical form, with the writes of the history put in (`call_replayed` in
Laws/Parameters.lean). Nothing is assumed of an address in no region; of two regions the earlier one counts. -/
structure Bus where
  cells : List Host.Cell
  regions : List BusRegion
  deriving DecidableEq, Repr

/-- `CPU_RESET_REGS` (R6, R36, D2). -/
structure CpuResetRegs where
  a : Byte
  x : Byte
  y : Byte
  sp : Byte
  p : Flags
  deriving DecidableEq, Repr

/-- The named parameters of R6 that a step reads and never changes (log 7). -/
structure Params where
  cpuResetRegs : CpuResetRegs
  resetCycles : Nat                 -- RESET_CYCLES (D3)
  hcopyDot : Nat                    -- HCOPY_DOT (D26)
  paletteReadRefillsBuffer : Bool   -- PALETTE_READ_REFILLS_BUFFER (D20)
  ppuResetScanline : Int            -- PPU_RESET_POSITION, the line (D33)
  ppuResetDot : Nat                 -- PPU_RESET_POSITION, the dot (D33)
  spriteStatus : SpriteStatus       -- SPRITE_STATUS (D32)
  deriving DecidableEq, Repr

/-- One call of the host (R257). `setIrq` is how the model's host moves the input level IRQ_LINE (log 10, log 14). -/
inductive HostCall where
  | cpuReset
  | cpuClock
  | ppuReset
  | ppuClock
  | ppuRead (index : Nat)
  | ppuWrite (index : Nat) (d : Byte)
  | inspect
  | setIrq (level : Bool)
  deriving DecidableEq, Repr

/-- The state of the block: what the spec's `10_state.md` (R20 to R51) says is state, and nothing else. No byte of a bus,
no schedule, no input level and no draw is in it (R52). -/
structure Block where
  cpu : Cpu                -- R20 to R36
  ppu : Ppu                -- R37 to R51
  nmiPending : Bool        -- the shared flag (R44)
  deriving DecidableEq, Repr

/-- What R52 says is not state of the block but a parameter of its step, as plain data, and beside it the lists of what the
block handed out. A call is handed one of these (`Block.step`) and hands one on. -/
structure StepParameters where
  irqLine : Bool           -- IRQ_LINE, the input level during the call (R6, R52, R245)
  ext : Bus                -- the premises on ExtBus (R52, R63)
  ppuBus : Bus             -- the premises on PpuBus (R52, R70)
  params : Params          -- the constants of R6
  calls : List HostCall    -- SCHEDULE: the calls to come, the next one first (R52, log 2)
  loop : List HostCall     -- SCHEDULE: what the host repeats when `calls` is empty (R52, log 2)
  draws : Nat              -- the number of the next draw (R52, log 5)
  io : List IoEvent        -- what the call handed out so far, in order: transfers, pixels, greyscale (R38, R231, log 12)
  history : List IoEvent   -- the accesses of both buses so far, the last one first: what ExtBus and PpuBus answer by (R63)
  deriving DecidableEq, Repr

/-- What a step of the host's interface takes and gives, which has this one argument: the block, and the parameters of its
step beside it (R52, log 27). -/
structure State extends Block, StepParameters
  deriving DecidableEq, Repr

/-- The two units a call can find not reset (R240). -/
inductive CoreUnit where
  | cpu
  | ppu
  deriving DecidableEq, Repr

/-- The faults of R240, class (a): contract violations, which end the run. -/
inductive Fault where
  /-- Raised by CPU `clock()` (R100) and by PPU `clock()`, `read`, `write` (R210, R187; the CPU reaches the last two
  through the window 0x2000 to 0x3FFF) when that unit was never reset. Safe: the spec stops there too. -/
  | notReset (core : CoreUnit)
  /-- Raised by PPU `read(i)` and `write(i, d)` when `i` is over 7 (R187). Safe: the spec stops there too. -/
  | badRegisterIndex (index : Nat)
  deriving DecidableEq, Repr

/-- The refusals of R240, class (b), and the one for an instruction without a meaning. -/
inductive Refusal where
  /-- Answered by an arm of `exec` that has no meaning yet: none at present. Safe. -/
  | notModelled (mnemonic : String)
  /-- Raised by a CPU begin call that fetches one of the 105 opcodes without a row (R93, D1). Safe: the chip goes on. -/
  | undefinedOpcode (op : Byte) (address : Word)
  /-- `Unsupported(SpriteStatus)`: raised by a STATUS read under `SPRITE_STATUS = Refuse` with MASK bit 4 set (R235).
  Safe: the chip goes on. -/
  | unsupportedSpriteStatus
  deriving DecidableEq, Repr

/-- How an operation of the machine ends: with a value and the state after it, or with a stop of R240. -/
inductive Res (α : Type) where
  | ok (value : α) (s : State)
  | fault (f : Fault)
  | refused (r : Refusal)
  deriving DecidableEq, Repr

/-- The values R6 gives the parameters. -/
def Params.spec : Params where
  cpuResetRegs := { a := 0x00, x := 0x00, y := 0x00, sp := 0xFD
                    p := { n := false, v := false, b := false, d := false, i := true, z := false, c := false } }
  resetCycles := 7
  hcopyDot := 257
  paletteReadRefillsBuffer := false
  ppuResetScanline := -1
  ppuResetDot := 0
  spriteStatus := .draw

/-- The two bytes the reset vector reads with nothing assumed of ExtBus: its first two answers (R36, R63, R260, log 4). -/
def resetLow : Byte := Config.extBusRead [] 0xFFFC
def resetHigh : Byte := Config.extBusRead [.cpuRead 0xFFFC resetLow] 0xFFFD

/-- The CPU right after its reset with nothing assumed of ExtBus (R36, log 4, log 8). -/
def Cpu.reset : Cpu where
  a := 0x00
  x := 0x00
  y := 0x00
  sp := 0xFD
  p := { n := false, v := false, b := false, d := false, i := true, z := false, c := false }
  pc := resetHigh ++ resetLow
  cycles := 7
  resetDone := true

/-- The PPU right after the reset that made draw number 0 (R51, log 9). -/
def Ppu.reset : Ppu where
  ctrl := 0x00
  mask := 0x00
  vblank := false
  sprite0Hit := false
  spriteOverflow := false
  oamAddr := 0x00
  oam := { cells := [], epoch := 0 }
  w := false
  v := 0x0000
  t := 0x0000
  x := 0
  nmiOutputPrev := false
  readBuffer := 0x00
  bgNextNt := 0x00
  bgNextAt := 0
  bgNextLo := 0x00
  bgNextHi := 0x00
  shPtLo := 0x0000
  shPtHi := 0x0000
  shAtLo := 0x0000
  shAtHi := 0x0000
  scanline := -1
  dot := 0
  resetDone := true

/-- The historical cadence, three PPU clocks per CPU clock (R275), the CPU first (the host loop of 95_test_vectors L3). -/
def historicalCadence : List HostCall := [.cpuClock, .ppuClock, .ppuClock, .ppuClock]

/-- The machine right after both resets, CPU then PPU (R260, R262, R264): nothing assumed of either bus (R52, R63, log 4),
and the two reads of the reset vector made. -/
def State.reset : State where
  cpu := Cpu.reset
  ppu := Ppu.reset
  nmiPending := false
  irqLine := false
  ext := { cells := [], regions := [] }
  ppuBus := { cells := [], regions := [] }
  params := Params.spec
  calls := []
  loop := historicalCadence
  draws := 1
  io := []
  history := [.cpuRead 0xFFFD resetHigh, .cpuRead 0xFFFC resetLow]

/-- The machine at creation, before either reset (R33, R50): the two reset flags are false. The spec gives no other value
before a reset, so the rest is the model's choice (DESIGN CHOICE, log 29): each unit's registers hold what its reset loads,
and are read by no call before the reset of their unit, which writes them all; `nmi_pending`, which no unit's registers hold
and which the PPU reset leaves alone (R44, R262), is false, and no CPU call samples it before the CPU reset clears it. -/
def State.powerOn : State :=
  { State.reset with
    cpu := { Cpu.reset with resetDone := false }
    ppu := { Ppu.reset with resetDone := false }
    draws := 0
    history := [] }

end Sys2Proof.Machine
end

