-- ==== Sys2Proof/Machine/Bus.lean ====
section
/-! DEFINITION. The two external buses (spec/20_memory.md R60 to R63, R70 to R71): memory as a list of cells in canonical
form, one byte read and one byte written on ExtBus and on PpuBus, and how an operation is chained and ended. -/

namespace Sys2Proof.Machine

/-- Go on with the value and the state of an operation that answered; keep a stop. -/
def Res.bind {α β : Type} (r : Res α) (k : α → State → Res β) : Res β :=
  match r with
  | .ok a s => k a s
  | .fault f => .fault f
  | .refused e => .refused e

/-- End a step with what an operation left. -/
def Res.finish (r : Res Unit) : Host.Outcome State Fault Refusal :=
  match r with
  | .ok _ s => .next s
  | .fault f => .fault f
  | .refused e => .refused e

/-- Record one bus transfer: in the list of the current call (log 12) and in the history the buses answer by (R63). -/
def State.record (e : IoEvent) (s : State) : State := { s with io := s.io ++ [e], history := e :: s.history }

/-- Record several bus transfers, the first one first. -/
def State.recordAll (events : List IoEvent) (s : State) : State :=
  { s with io := s.io ++ events, history := events.reverse ++ s.history }

/-- Hand the host a byte it asked for, or the frame buffer a pixel (log 12): no access of a bus. -/
def State.emit (e : IoEvent) (s : State) : State := { s with io := s.io ++ [e] }

/-- One free value has been used (log 5). -/
def State.nextDraw (s : State) : State := { s with draws := s.draws + 1 }

/-! ## Memory as a list of cells -/

/-- What an address that no cell lists reads as (log 4). -/
def unlistedByte : Byte := 0x00

/-- The byte a list of cells holds at an address. -/
def cellsFind : List Host.Cell → Nat → Option Byte
  | [], _ => none
  | (k, d) :: rest, a => if k = a then some d else cellsFind rest a

/-- Put a byte into its place in a list sorted by address. -/
def cellsInsert (a : Nat) (d : Byte) : List Host.Cell → List Host.Cell
  | [] => [(a, d)]
  | (k, e) :: rest =>
    if a < k then (a, d) :: (k, e) :: rest
    else if a = k then (a, d) :: rest
    else (k, e) :: cellsInsert a d rest

/-- Take an address out of a list of cells. -/
def cellsErase (a : Nat) (cells : List Host.Cell) : List Host.Cell :=
  cells.filter (fun c => decide (c.1 ≠ a))

/-- Write one byte and keep the canonical form: the byte an unlisted address reads as is not listed. -/
def cellsWrite (a : Nat) (d : Byte) (cells : List Host.Cell) : List Host.Cell :=
  if d = unlistedByte then cellsErase a cells else cellsInsert a d cells

/-- The canonical form of a memory of `size` bytes: addresses strictly rising and in range, and no cell holding what an
unlisted address reads as. -/
abbrev Memory.wf (size : Nat) (cells : List Host.Cell) : Prop :=
  cells.Pairwise (fun c e => c.1 < e.1) ∧ ∀ c ∈ cells, c.1 < size ∧ c.2 ≠ unlistedByte

/-- The byte a bus's memory holds at an address, read without any effect (an inspection, R53). -/
def Bus.peek (b : Bus) (a : Nat) : Byte := (cellsFind b.cells a).getD unlistedByte

/-- What is assumed of a bus at an address: what its first region there says, nothing outside every region (R63, log 3). -/
def busKindIn : List BusRegion → Nat → BusKind
  | [], _ => .free
  | r :: rest, a => if r.first ≤ a ∧ a ≤ r.last then r.kind else busKindIn rest a

/-- What is assumed of a bus at an address. -/
def Bus.kindAt (b : Bus) (a : Nat) : BusKind := busKindIn b.regions a

/-- The effect of a write on the bytes assumed: stored where the bus is RAM. A write elsewhere takes effect through the
history alone. -/
def Bus.store (b : Bus) (a : Nat) (d : Byte) : Bus :=
  match b.kindAt a with
  | .ram => { b with cells := cellsWrite a d b.cells }
  | .rom => b
  | .free => b

/-! ## One transfer -/

/-- `ExtBus.read(a)` (R62, R63): the byte assumed there, or where nothing is assumed what ExtBus answers after this
history. -/
def extRead (a : Word) (s : State) : Byte :=
  match s.ext.kindAt a.toNat with
  | .ram => s.ext.peek a.toNat
  | .rom => s.ext.peek a.toNat
  | .free => Config.extBusRead s.history a

/-- `ExtBus.write(a, d)` (R62, R63). -/
def extWrite (a : Word) (d : Byte) (s : State) : State :=
  { s with ext := s.ext.store a.toNat d }

/-- The answer of PpuBus at an address (R70): the byte assumed there, or where nothing is assumed what PpuBus answers after
this history. -/
def ppuBusAnswer (a : BitVec 14) (s : State) : Byte :=
  match s.ppuBus.kindAt a.toNat with
  | .ram => s.ppuBus.peek a.toNat
  | .rom => s.ppuBus.peek a.toNat
  | .free => Config.ppuBusRead s.history a

/-- `PpuRead(a)` (R9, R70): one transfer on the PPU bus. -/
def ppuBusRead (a : BitVec 14) (s : State) : Byte × State :=
  (ppuBusAnswer a s, s.record (.ppuRead a (ppuBusAnswer a s)))

/-- `PpuWrite(a, d)` (R9, R70): one transfer on the PPU bus. -/
def ppuBusWrite (a : BitVec 14) (d : Byte) (s : State) : State :=
  { s.record (.ppuWrite a d) with ppuBus := s.ppuBus.store a.toNat d }

end Sys2Proof.Machine
end

