-- ==== Sys2Proof/Machine/PpuPort.lean ====
section
/-! DEFINITION. The PPU register file the processor sees (spec/48_ppu_registers.md R186 to R209) and the NMI arbiter
(spec/60_exceptions.md R243). -/

namespace Sys2Proof.Machine

/-- `UpdateNmi()` (R243): compare the NMI condition with its last value and raise the shared flag on a rising edge. -/
def updateNmi (s : State) : State :=
  let out := s.ppu.vblank && s.ppu.ctrl.getLsbD 7
  { s with
    nmiPending := s.nmiPending || (out && !s.ppu.nmiOutputPrev)
    ppu := { s.ppu with nmiOutputPrev := out } }

/-! ## Object attribute memory -/

/-- The byte OAM holds: the one written, else the draw of the last PPU reset (R51, U7). -/
def oamPeek (o : Oam) (index : Byte) : Byte :=
  (cellsFind o.cells index.toNat).getD (Config.oamByte o.epoch index.toNat)

/-- Store a byte into OAM. -/
def oamStore (o : Oam) (index d : Byte) : Oam :=
  { o with cells := cellsInsert index.toNat d o.cells }

/-! ## Register reads -/

/-- A read of a write-only register (R188): a free value, no change of state. -/
def readOpenBus (s : State) : Res Byte :=
  .ok (Config.openBusRead s.draws) s.nextDraw

/-- The status byte of R192: the three stored bits above five undriven ones. -/
def statusByte (p : Ppu) (low5 : BitVec 5) : Byte :=
  BitVec.ofBool p.vblank ++ BitVec.ofBool p.sprite0Hit ++ BitVec.ofBool p.spriteOverflow ++ low5

/-- STATUS read (R193), refused under `SPRITE_STATUS = Refuse` while sprites are shown (R235). -/
def readStatus (s : State) : Res Byte :=
  if s.params.spriteStatus = .refuse ∧ s.ppu.mask.getLsbD 4 then .refused .unsupportedSpriteStatus
  else
    .ok (statusByte s.ppu (Config.statusLowBits s.draws))
      (updateNmi { s.nextDraw with ppu := { s.ppu with vblank := false, w := false } })

/-- OAMDATA read (R195): attribute bytes read with bits 4..2 clear, and `oam_addr` stays. -/
def readOamData (s : State) : Res Byte :=
  let r := oamPeek s.ppu.oam s.ppu.oamAddr
  .ok (if s.ppu.oamAddr &&& 0x03 = 0x02 then r &&& 0xE3 else r) s

/-- `IncrementDataPort()` (R203): add 1 or 32 to `v`, modulo 2^15. -/
def incrementDataPort (s : State) : State :=
  { s with ppu := { s.ppu with v := s.ppu.v + (if s.ppu.ctrl.getLsbD 2 then 32 else 1) } }

/-- The data port's address, the low 14 bits of `v` (R71, R201). -/
def dataPortAddress (p : Ppu) : BitVec 14 := p.v.setWidth 14

/-- DATA read below palette space (R201): the buffered byte, then the buffer is refilled. -/
def readDataBuffered (s : State) : Byte × State :=
  let q := ppuBusRead (dataPortAddress s.ppu) s
  (s.ppu.readBuffer, { q.2 with ppu := { q.2.ppu with readBuffer := q.1 } })

/-- DATA read of palette space (R201): the byte itself; the buffer is refilled from beneath the palette only under
`PALETTE_READ_REFILLS_BUFFER`. -/
def readDataPalette (s : State) : Byte × State :=
  let q := ppuBusRead (dataPortAddress s.ppu) s
  if s.params.paletteReadRefillsBuffer then
    let u := ppuBusRead (dataPortAddress s.ppu &&& 0x2FFF) q.2
    (q.1, { u.2 with ppu := { u.2.ppu with readBuffer := u.1 } })
  else q

/-- DATA read (R201, R203). -/
def readData (s : State) : Res Byte :=
  let q := if dataPortAddress s.ppu < 0x3F00 then readDataBuffered s else readDataPalette s
  .ok q.1 (incrementDataPort q.2)

/-- `PPU.read(i)` (R186, R187): the two checks of the port, then the register's own rule. -/
def portRead (index : Nat) (s : State) : Res Byte :=
  if s.ppu.resetDone = false then .fault (.notReset .ppu)
  else if 7 < index then .fault (.badRegisterIndex index)
  else
    match index with
    | 2 => readStatus s
    | 4 => readOamData s
    | 7 => readData s
    | _ => readOpenBus s

/-! ## Register writes -/

/-- CTRL write (R189). -/
def writeCtrl (d : Byte) (s : State) : State :=
  updateNmi { s with ppu := { s.ppu with
    ctrl := d
    t := (s.ppu.t &&& 0x73FF#15) ||| ((d.setWidth 15 &&& 0x03) <<< 10) } }

/-- MASK write (R190). -/
def writeMask (d : Byte) (s : State) : State :=
  { s with ppu := { s.ppu with mask := d } }

/-- OAMADDR write (R194). -/
def writeOamAddr (d : Byte) (s : State) : State :=
  { s with ppu := { s.ppu with oamAddr := d } }

/-- OAMDATA write (R196): the whole byte is stored, then `oam_addr` moves on. -/
def writeOamData (d : Byte) (s : State) : State :=
  { s with ppu := { s.ppu with
    oam := oamStore s.ppu.oam s.ppu.oamAddr d
    oamAddr := s.ppu.oamAddr + 1 } }

/-- SCROLL write: horizontal when `w` is 0 (R197), vertical when `w` is 1 (R198). -/
def writeScroll (d : Byte) (s : State) : State :=
  if s.ppu.w then
    { s with ppu := { s.ppu with
      t := (s.ppu.t &&& 0x0C1F#15) ||| ((d.setWidth 15 &&& 0x07) <<< 12) ||| ((d.setWidth 15 >>> 3) <<< 5)
      w := false } }
  else
    { s with ppu := { s.ppu with
      t := (s.ppu.t &&& 0x7FE0#15) ||| (d.setWidth 15 >>> 3)
      x := d.setWidth 3
      w := true } }

/-- ADDR write: the high byte when `w` is 0 (R199), the low byte and the transfer to `v` when `w` is 1 (R200). -/
def writeAddr (d : Byte) (s : State) : State :=
  if s.ppu.w then
    { s with ppu := { s.ppu with
      t := (s.ppu.t &&& 0x7F00#15) ||| d.setWidth 15
      v := (s.ppu.t &&& 0x7F00#15) ||| d.setWidth 15
      w := false } }
  else
    { s with ppu := { s.ppu with
      t := (s.ppu.t &&& 0x00FF#15) ||| ((d.setWidth 15 &&& 0x3F) <<< 8)
      w := true } }

/-- DATA write (R202, R203). -/
def writeData (d : Byte) (s : State) : State :=
  incrementDataPort (ppuBusWrite (dataPortAddress s.ppu) d s)

/-- `PPU.write(i, d)` (R186, R187): the two checks of the port, then the register's own rule; a write to STATUS changes
nothing (R191). -/
def portWrite (index : Nat) (d : Byte) (s : State) : Res Unit :=
  if s.ppu.resetDone = false then .fault (.notReset .ppu)
  else if 7 < index then .fault (.badRegisterIndex index)
  else
    match index with
    | 0 => .ok () (writeCtrl d s)
    | 1 => .ok () (writeMask d s)
    | 3 => .ok () (writeOamAddr d s)
    | 4 => .ok () (writeOamData d s)
    | 5 => .ok () (writeScroll d s)
    | 6 => .ok () (writeAddr d s)
    | 7 => .ok () (writeData d s)
    | _ => .ok () s

end Sys2Proof.Machine
end

