-- ==== Sys2Proof/Machine/Ops.lean ====
section
/-! DEFINITION. The named operations over memory and registers: the processor bus (spec/20_memory.md R62, R65), the stack
(spec/40_cpu_engine.md R106, R107), taking an interrupt (spec/60_exceptions.md R246 to R248) and returning from one
(spec/46_control_transfer.md R177). -/

namespace Sys2Proof.Machine

/-- How exec and step answer. -/
abbrev Out := Host.Outcome State Fault Refusal

/-! ## Register updates -/

def State.setCpu (c : Cpu) (s : State) : State := { s with cpu := c }
def State.setA (v : Byte) (s : State) : State := { s with cpu := { s.cpu with a := v } }
def State.setSp (v : Byte) (s : State) : State := { s with cpu := { s.cpu with sp := v } }
def State.setPc (v : Word) (s : State) : State := { s with cpu := { s.cpu with pc := v } }
def State.setP (v : Flags) (s : State) : State := { s with cpu := { s.cpu with p := v } }
def State.setCycles (n : Nat) (s : State) : State := { s with cpu := { s.cpu with cycles := n } }

/-! ## The processor bus -/

/-- Whether an address lies in the PPU register window 0x2000 to 0x3FFF (R62, R69, D11). -/
def inWindow (a : Word) : Bool := decide (0x2000 ≤ a ∧ a ≤ 0x3FFF)

/-- The PPU register an address of the window reaches: the window repeats every 8 bytes (R62, R186). -/
def windowIndex (a : Word) : Nat := (a &&& 0x7).toNat

/-- `MemRead(a)` (R62): the PPU register in the window, ExtBus elsewhere. -/
def memRead (a : Word) (s : State) : Res Byte :=
  if inWindow a then (portRead (windowIndex a) s).bind fun d s1 => .ok d (s1.record (.cpuRead a d))
  else .ok (extRead a s) (s.record (.cpuRead a (extRead a s)))

/-- `MemWrite(a, d)` (R62): the PPU register in the window, ExtBus elsewhere. -/
def memWrite (a : Word) (d : Byte) (s : State) : Res Unit :=
  if inWindow a then (portWrite (windowIndex a) d s).bind fun _ s1 => .ok () (s1.record (.cpuWrite a d))
  else .ok () ((extWrite a d s).record (.cpuWrite a d))

/-- `MemRead16(a)` (R65): the low byte at `a`, then the high byte at `a + 1` modulo 2^16. -/
def memRead16 (a : Word) (s : State) : Res Word :=
  (memRead a s).bind fun lo s1 => (memRead (a + 1) s1).bind fun hi s2 => .ok (word16 hi lo) s2

/-! ## The stack -/

/-- The address `0x0100 | SP` of the next free stack byte (R22). -/
def stackAddress (sp : Byte) : Word := 0x0100 ||| sp.setWidth 16

/-- `Push(v)` (R106). -/
def push (d : Byte) (s : State) : Res Unit :=
  (memWrite (stackAddress s.cpu.sp) d s).bind fun _ s1 => .ok () (s1.setSp (s1.cpu.sp - 1))

/-- `Pull()` (R106). -/
def pull (s : State) : Res Byte :=
  memRead (stackAddress (s.cpu.sp + 1)) (s.setSp (s.cpu.sp + 1))

/-- `Push16(w)` (R107): the high byte first. -/
def push16 (w : Word) (s : State) : Res Unit :=
  (push (highByte w) s).bind fun _ s1 => push (lowByte w) s1

/-- `Pull16()` (R107): the low byte first. -/
def pull16 (s : State) : Res Word :=
  (pull s).bind fun lo s1 => (pull s1).bind fun hi s2 => .ok (word16 hi lo) s2

/-! ## The status register as a byte -/

/-- P as a byte, `{N, V, U, B, D, I, Z, C}` with U the constant 1 (R23, R29). -/
def Flags.toByte (p : Flags) : Byte :=
  BitVec.ofBool p.n ++ BitVec.ofBool p.v ++ (1#1) ++ BitVec.ofBool p.b ++
    BitVec.ofBool p.d ++ BitVec.ofBool p.i ++ BitVec.ofBool p.z ++ BitVec.ofBool p.c

/-- P from a pulled byte, `(r & 0xCF) | 0x20` (R145, R177): bit 4 is discarded and stored B becomes 0. -/
def Flags.ofPulled (r : Byte) : Flags where
  n := r.getLsbD 7
  v := r.getLsbD 6
  b := false
  d := r.getLsbD 3
  i := r.getLsbD 2
  z := r.getLsbD 1
  c := r.getLsbD 0

/-- The byte a push of P writes: bit 4 is given by the pusher, bit 5 is 1 (R28, R143, R247). -/
def Flags.pushed (p : Flags) (b : Bool) : Byte :=
  (p.toByte &&& 0xEF#8) ||| ((BitVec.ofBool b).setWidth 8 <<< 4) ||| 0x20

/-! ## Taking an interrupt and returning from one -/

/-- The vectors (R69). -/
def nmiVector : Word := 0xFFFA
def resetVector : Word := 0xFFFC
def irqVector : Word := 0xFFFE

/-- `Enter(ret, b, vector)` (R247), for NMI, IRQ and BRK: push the return address and then P with bit 4 = `b`, store `b`
in B, set I after the push, and load PC from the vector. -/
def enter (ret : Word) (b : Bool) (vector : Word) (s : State) : Res Unit :=
  (push16 ret s).bind fun _ s1 =>
  (push ((({ s1.cpu.p with b := b } : Flags)).pushed b) (s1.setP { s1.cpu.p with b := b })).bind fun _ s2 =>
  (memRead16 vector (s2.setP { s2.cpu.p with i := true })).bind fun target s3 =>
  .ok () (s3.setPc target)

/-- `NmiEntry()` (R246). -/
def nmiEntry (s : State) : Res Unit :=
  enter s.cpu.pc false nmiVector { s with nmiPending := false }

/-- `IrqEntry()` (R248). -/
def irqEntry (s : State) : Res Unit :=
  enter s.cpu.pc false irqVector s

/-- The return of RTI (R177): pull P, then PC, with no increment. -/
def leave (s : State) : Res Unit :=
  (pull s).bind fun r s1 =>
  (pull16 (s1.setP (Flags.ofPulled r))).bind fun target s2 =>
  .ok () (s2.setPc target)

end Sys2Proof.Machine
end

