-- ==== Sys2Proof/Machine/Flags.lean ====
section
/-! DEFINITION. Every flag computation (spec/00_scope.md R10, spec/44_logical_shift.md R149 to R153,
spec/45_arithmetic_compare.md R154 to R158), as functions of the operands and the flags. -/

namespace Sys2Proof.Machine

/-- `SetNZ(r)` (R10). -/
def Flags.setNZ (r : Byte) (p : Flags) : Flags := { p with z := r == 0, n := r.getLsbD 7 }

/-- The 9-bit sum of ADC and SBC (R113, R154). -/
def sum9 (a m : Byte) (carry : Bool) : BitVec 9 :=
  a.setWidth 9 + m.setWidth 9 + (BitVec.ofBool carry).setWidth 9

/-- The 8-bit result of the 9-bit sum (R154). -/
def sumResult (a m : Byte) (carry : Bool) : Byte := (sum9 a m carry).setWidth 8

/-- The carry out, bit 8 of the 9-bit sum (R154). -/
def sumCarry (a m : Byte) (carry : Bool) : Bool := (sum9 a m carry).getLsbD 8

/-- The overflow rule: both inputs share a sign and the result's sign differs (R154). -/
def sumOverflow (a m r : Byte) : Bool := ((a ^^^ m) &&& 0x80 == 0) && ((a ^^^ r) &&& 0x80 != 0)

/-- The flags ADC leaves for operand `m` (R154); SBC gives it the complemented operand (R155). D is not read. -/
def Flags.afterSum (a m : Byte) (p : Flags) : Flags :=
  Flags.setNZ (sumResult a m p.c)
    { p with c := sumCarry a m p.c, v := sumOverflow a m (sumResult a m p.c) }

/-- The flags of a comparison of a register with `m` (R156): C is 1 when no borrow, V is kept. -/
def Flags.afterCompare (r m : Byte) (p : Flags) : Flags :=
  { p with c := decide (m ≤ r), z := r == m, n := (r - m).getLsbD 7 }

/-- The flags of BIT (R149). -/
def Flags.afterBit (a m : Byte) (p : Flags) : Flags :=
  { p with z := a &&& m == 0, n := m.getLsbD 7, v := m.getLsbD 6 }

/-- ASL: result and flags (R150). -/
def shiftLeft (m : Byte) (p : Flags) : Byte × Flags :=
  (m <<< 1, Flags.setNZ (m <<< 1) { p with c := m.getLsbD 7 })

/-- LSR: result and flags (R151). -/
def shiftRight (m : Byte) (p : Flags) : Byte × Flags :=
  (m >>> 1, Flags.setNZ (m >>> 1) { p with c := m.getLsbD 0 })

/-- ROL: the old carry enters bit 0 (R152). -/
def rotateLeft (m : Byte) (p : Flags) : Byte × Flags :=
  let r := (m <<< 1) ||| (BitVec.ofBool p.c).setWidth 8
  (r, Flags.setNZ r { p with c := m.getLsbD 7 })

/-- ROR: the old carry enters bit 7 (R153). -/
def rotateRight (m : Byte) (p : Flags) : Byte × Flags :=
  let r := (m >>> 1) ||| ((BitVec.ofBool p.c).setWidth 8 <<< 7)
  (r, Flags.setNZ r { p with c := m.getLsbD 0 })

/-- INC: result and flags (R159). -/
def increment (m : Byte) (p : Flags) : Byte × Flags := (m + 1, Flags.setNZ (m + 1) p)

/-- DEC: result and flags (R160). -/
def decrement (m : Byte) (p : Flags) : Byte × Flags := (m - 1, Flags.setNZ (m - 1) p)

end Sys2Proof.Machine
end

