-- ==== Sys2Proof/Machine/Operands.lean ====
section
/-! DEFINITION. The addressing modes (spec/41_addressing_modes.md R115 to R128), the operand helpers
(spec/40_cpu_engine.md R108, R109) and the shapes the instructions share. The operand bytes have been read by the fetch and
PC is at the next instruction (log 1). -/

namespace Sys2Proof.Machine

/-! ## Effective addresses -/

/-- Whether two addresses differ in bits 15..8 (R13, R123). -/
def crossesPage (a b : Word) : Bool := highByte a != highByte b

/-- An address in page 0 (R87, R119). -/
def zeroPageAddress (zz : Byte) : Word := zz.setWidth 16

/-- A base address plus an index modulo 2^16, and whether the page changed (R123, R124, R127). -/
def indexedAddress (base : Word) (index : Byte) : Word × Bool :=
  (base + index.setWidth 16, crossesPage (base + index.setWidth 16) base)

/-- The word at a zero-page pointer: its second byte wraps inside page 0 (R126, R127). -/
def readPointer (p : Byte) (s : State) : Res Word :=
  (memRead (zeroPageAddress p) s).bind fun lo s1 =>
  (memRead (zeroPageAddress (p + 1)) s1).bind fun hi s2 => .ok (word16 hi lo) s2

/-- The effective address of a memory operand and its page-crossing flag. -/
def effective (m : MemOperand) (s : State) : Res (Word × Bool) :=
  match m with
  | .zeroPage zz => .ok (zeroPageAddress zz, false) s                         -- R119
  | .zeroPageX zz => .ok (zeroPageAddress (zz + s.cpu.x), false) s            -- R120
  | .zeroPageY zz => .ok (zeroPageAddress (zz + s.cpu.y), false) s            -- R121
  | .absolute a => .ok (a, false) s                                           -- R122
  | .absoluteX a => .ok (indexedAddress a s.cpu.x) s                          -- R123
  | .absoluteY a => .ok (indexedAddress a s.cpu.y) s                          -- R124
  | .indexedIndirect zz =>                                                    -- R126
    (readPointer (zz + s.cpu.x) s).bind fun ea s1 => .ok (ea, false) s1
  | .indirectIndexed zz =>                                                    -- R127
    (readPointer zz s).bind fun base s1 => .ok (indexedAddress base s1.cpu.y) s1

/-- The target of JMP indirect: the high byte is read from the page of the low byte (R125, D17). -/
def indirectTarget (ptr : Word) (s : State) : Res Word :=
  (memRead ptr s).bind fun lo s1 =>
  (memRead (word16 (highByte ptr) (lowByte ptr + 1)) s1).bind fun hi s2 => .ok (word16 hi lo) s2

/-- The target of a branch, PC being at the next instruction (R128). -/
def relativeTarget (pc : Word) (rr : Byte) : Word := pc + rr.signExtend 16

/-! ## Operands -/

/-- `Fetch()` of a read instruction (R109), with the page-crossing flag: an immediate operand is the byte the fetch has
already read (R118, log 1). -/
def readOperand (src : Source) (s : State) : Res (Byte × Bool) :=
  match src with
  | .immediate b => .ok (b, false) s
  | .memory m =>
    (effective m s).bind fun q s1 => (memRead q.1 s1).bind fun d s2 => .ok (d, q.2) s2

/-- `PagePenalty` (R104). -/
def pagePenalty (flagged crossed : Bool) : Nat := if flagged && crossed then 1 else 0

/-! ## The shapes of instructions -/

/-- End an instruction: its cost is loaded into the countdown (R101, R103). -/
def complete (r : Res Unit) (cost : Nat) : Out :=
  (r.bind fun _ s => .ok () (s.setCycles cost)).finish

/-- An instruction that reads its operand and acts on the processor's registers. -/
def readInstr (src : Source) (base : Nat) (flagged : Bool) (act : Byte → Cpu → Cpu) (s : State) : Out :=
  ((readOperand src s).bind fun q s1 =>
    .ok () ((s1.setCpu (act q.1 s1.cpu)).setCycles (base + pagePenalty flagged q.2))).finish

/-- An instruction that stores a register and never reads `EA` (R109, R133). -/
def storeInstr (m : MemOperand) (base : Nat) (value : Cpu → Byte) (s : State) : Out :=
  complete ((effective m s).bind fun q s1 => memWrite q.1 (value s1.cpu) s1) base

/-- A read-modify-write instruction on memory: one read and one write at `EA` (R74, R150). -/
def modifyMemory (m : MemOperand) (base : Nat) (act : Byte → Flags → Byte × Flags) (s : State) : Out :=
  complete
    ((effective m s).bind fun q s1 => (memRead q.1 s1).bind fun d s2 =>
      memWrite q.1 (act d s2.cpu.p).1 (s2.setP (act d s2.cpu.p).2)) base

/-- A shift or rotate of the accumulator (R117). -/
def modifyAccumulator (base : Nat) (act : Byte → Flags → Byte × Flags) (s : State) : Out :=
  .next (((s.setA (act s.cpu.a s.cpu.p).1).setP (act s.cpu.a s.cpu.p).2).setCycles base)

/-- An implied instruction that acts on the processor's registers alone. -/
def registerInstr (base : Nat) (act : Cpu → Cpu) (s : State) : Out :=
  .next ((s.setCpu (act s.cpu)).setCycles base)

/-- `Branch(cond)` with the base cost (R108): 2 not taken, 3 taken, 4 taken to another page. -/
def branchInstr (base : Nat) (cond : Flags → Bool) (rr : Byte) (s : State) : Out :=
  if cond s.cpu.p then
    .next ((s.setPc (relativeTarget s.cpu.pc rr)).setCycles
      (base + 1 + pagePenalty true (crossesPage (relativeTarget s.cpu.pc rr) s.cpu.pc)))
  else .next (s.setCycles base)

end Sys2Proof.Machine
end

