-- ==== Sys2Proof/Machine/LoadStore.lean ====
section
/-! DEFINITION. The meanings of spec/42_load_store_transfer.md R130 to R141. Each runs with PC at the next
instruction and its operand bytes read (log 1), and loads its cost into the countdown (R101, R103). -/

namespace Sys2Proof.Machine

/-- `A <- r; SetNZ(r)` (R130). -/
def loadA (r : Byte) (c : Cpu) : Cpu := { c with a := r, p := c.p.setNZ r }

/-- `X <- r; SetNZ(r)` (R131). -/
def loadX (r : Byte) (c : Cpu) : Cpu := { c with x := r, p := c.p.setNZ r }

/-- `Y <- r; SetNZ(r)` (R132). -/
def loadY (r : Byte) (c : Cpu) : Cpu := { c with y := r, p := c.p.setNZ r }

/-- LDA immediate (R130). -/
def execLdaImm (b : Byte) (s : State) : Out :=
  readInstr (.immediate b) 2 false loadA s

/-- LDA zero-page (R130). -/
def execLdaZp0 (zz : Byte) (s : State) : Out :=
  readInstr (.memory (.zeroPage zz)) 3 false loadA s

/-- LDA zero-page-X (R130). -/
def execLdaZpx (zz : Byte) (s : State) : Out :=
  readInstr (.memory (.zeroPageX zz)) 4 false loadA s

/-- LDA absolute (R130). -/
def execLdaAbs (a : Word) (s : State) : Out :=
  readInstr (.memory (.absolute a)) 4 false loadA s

/-- LDA absolute-X (R130). -/
def execLdaAbx (a : Word) (s : State) : Out :=
  readInstr (.memory (.absoluteX a)) 4 true loadA s

/-- LDA absolute-Y (R130). -/
def execLdaAby (a : Word) (s : State) : Out :=
  readInstr (.memory (.absoluteY a)) 4 true loadA s

/-- LDA indexed-indirect (R130). -/
def execLdaIzx (zz : Byte) (s : State) : Out :=
  readInstr (.memory (.indexedIndirect zz)) 6 false loadA s

/-- LDA indirect-indexed (R130). -/
def execLdaIzy (zz : Byte) (s : State) : Out :=
  readInstr (.memory (.indirectIndexed zz)) 5 true loadA s

/-- LDX immediate (R131). -/
def execLdxImm (b : Byte) (s : State) : Out :=
  readInstr (.immediate b) 2 false loadX s

/-- LDX zero-page (R131). -/
def execLdxZp0 (zz : Byte) (s : State) : Out :=
  readInstr (.memory (.zeroPage zz)) 3 false loadX s

/-- LDX zero-page-Y (R131). -/
def execLdxZpy (zz : Byte) (s : State) : Out :=
  readInstr (.memory (.zeroPageY zz)) 4 false loadX s

/-- LDX absolute (R131). -/
def execLdxAbs (a : Word) (s : State) : Out :=
  readInstr (.memory (.absolute a)) 4 false loadX s

/-- LDX absolute-Y (R131). -/
def execLdxAby (a : Word) (s : State) : Out :=
  readInstr (.memory (.absoluteY a)) 4 true loadX s

/-- LDY immediate (R132). -/
def execLdyImm (b : Byte) (s : State) : Out :=
  readInstr (.immediate b) 2 false loadY s

/-- LDY zero-page (R132). -/
def execLdyZp0 (zz : Byte) (s : State) : Out :=
  readInstr (.memory (.zeroPage zz)) 3 false loadY s

/-- LDY zero-page-X (R132). -/
def execLdyZpx (zz : Byte) (s : State) : Out :=
  readInstr (.memory (.zeroPageX zz)) 4 false loadY s

/-- LDY absolute (R132). -/
def execLdyAbs (a : Word) (s : State) : Out :=
  readInstr (.memory (.absolute a)) 4 false loadY s

/-- LDY absolute-X (R132). -/
def execLdyAbx (a : Word) (s : State) : Out :=
  readInstr (.memory (.absoluteX a)) 4 true loadY s

/-- STA zero-page (R133). -/
def execStaZp0 (zz : Byte) (s : State) : Out :=
  storeInstr (.zeroPage zz) 3 (fun c => c.a) s

/-- STA zero-page-X (R133). -/
def execStaZpx (zz : Byte) (s : State) : Out :=
  storeInstr (.zeroPageX zz) 4 (fun c => c.a) s

/-- STA absolute (R133). -/
def execStaAbs (a : Word) (s : State) : Out :=
  storeInstr (.absolute a) 4 (fun c => c.a) s

/-- STA absolute-X (R133). -/
def execStaAbx (a : Word) (s : State) : Out :=
  storeInstr (.absoluteX a) 5 (fun c => c.a) s

/-- STA absolute-Y (R133). -/
def execStaAby (a : Word) (s : State) : Out :=
  storeInstr (.absoluteY a) 5 (fun c => c.a) s

/-- STA indexed-indirect (R133). -/
def execStaIzx (zz : Byte) (s : State) : Out :=
  storeInstr (.indexedIndirect zz) 6 (fun c => c.a) s

/-- STA indirect-indexed (R133). -/
def execStaIzy (zz : Byte) (s : State) : Out :=
  storeInstr (.indirectIndexed zz) 6 (fun c => c.a) s

/-- STX zero-page (R134). -/
def execStxZp0 (zz : Byte) (s : State) : Out :=
  storeInstr (.zeroPage zz) 3 (fun c => c.x) s

/-- STX zero-page-Y (R134). -/
def execStxZpy (zz : Byte) (s : State) : Out :=
  storeInstr (.zeroPageY zz) 4 (fun c => c.x) s

/-- STX absolute (R134). -/
def execStxAbs (a : Word) (s : State) : Out :=
  storeInstr (.absolute a) 4 (fun c => c.x) s

/-- STY zero-page (R135). -/
def execStyZp0 (zz : Byte) (s : State) : Out :=
  storeInstr (.zeroPage zz) 3 (fun c => c.y) s

/-- STY zero-page-X (R135). -/
def execStyZpx (zz : Byte) (s : State) : Out :=
  storeInstr (.zeroPageX zz) 4 (fun c => c.y) s

/-- STY absolute (R135). -/
def execStyAbs (a : Word) (s : State) : Out :=
  storeInstr (.absolute a) 4 (fun c => c.y) s

/-- TAX (R136). -/
def execTax (s : State) : Out :=
  registerInstr 2 (fun c => loadX c.a c) s

/-- TAY (R137). -/
def execTay (s : State) : Out :=
  registerInstr 2 (fun c => loadY c.a c) s

/-- TXA (R138). -/
def execTxa (s : State) : Out :=
  registerInstr 2 (fun c => loadA c.x c) s

/-- TYA (R139). -/
def execTya (s : State) : Out :=
  registerInstr 2 (fun c => loadA c.y c) s

/-- TSX (R140). -/
def execTsx (s : State) : Out :=
  registerInstr 2 (fun c => loadX c.sp c) s

/-- TXS (R141). -/
def execTxs (s : State) : Out :=
  registerInstr 2 (fun c => { c with sp := c.x }) s

end Sys2Proof.Machine
end

