-- ==== Sys2Proof/Machine/Arithmetic.lean ====
section
/-! DEFINITION. The meanings of spec/45_arithmetic_compare.md R154 to R164. Each runs with PC at the next
instruction and its operand bytes read (log 1), and loads its cost into the countdown (R101, R103). -/

namespace Sys2Proof.Machine

/-- ADC of `m` (R154). -/
def addA (m : Byte) (c : Cpu) : Cpu := { c with a := sumResult c.a m c.p.c, p := c.p.afterSum c.a m }

/-- SBC of `m`: ADC of its complement (R155). -/
def subA (m : Byte) (c : Cpu) : Cpu := addA (m ^^^ 0xFF) c

/-- CMP with `m` (R156). -/
def compareA (m : Byte) (c : Cpu) : Cpu := { c with p := c.p.afterCompare c.a m }

/-- CPX with `m` (R157). -/
def compareX (m : Byte) (c : Cpu) : Cpu := { c with p := c.p.afterCompare c.x m }

/-- CPY with `m` (R158). -/
def compareY (m : Byte) (c : Cpu) : Cpu := { c with p := c.p.afterCompare c.y m }

/-- ADC immediate (R154). -/
def execAdcImm (b : Byte) (s : State) : Out :=
  readInstr (.immediate b) 2 false addA s

/-- ADC zero-page (R154). -/
def execAdcZp0 (zz : Byte) (s : State) : Out :=
  readInstr (.memory (.zeroPage zz)) 3 false addA s

/-- ADC zero-page-X (R154). -/
def execAdcZpx (zz : Byte) (s : State) : Out :=
  readInstr (.memory (.zeroPageX zz)) 4 false addA s

/-- ADC absolute (R154). -/
def execAdcAbs (a : Word) (s : State) : Out :=
  readInstr (.memory (.absolute a)) 4 false addA s

/-- ADC absolute-X (R154). -/
def execAdcAbx (a : Word) (s : State) : Out :=
  readInstr (.memory (.absoluteX a)) 4 true addA s

/-- ADC absolute-Y (R154). -/
def execAdcAby (a : Word) (s : State) : Out :=
  readInstr (.memory (.absoluteY a)) 4 true addA s

/-- ADC indexed-indirect (R154). -/
def execAdcIzx (zz : Byte) (s : State) : Out :=
  readInstr (.memory (.indexedIndirect zz)) 6 false addA s

/-- ADC indirect-indexed (R154). -/
def execAdcIzy (zz : Byte) (s : State) : Out :=
  readInstr (.memory (.indirectIndexed zz)) 5 true addA s

/-- SBC immediate (R155). -/
def execSbcImm (b : Byte) (s : State) : Out :=
  readInstr (.immediate b) 2 false subA s

/-- SBC zero-page (R155). -/
def execSbcZp0 (zz : Byte) (s : State) : Out :=
  readInstr (.memory (.zeroPage zz)) 3 false subA s

/-- SBC zero-page-X (R155). -/
def execSbcZpx (zz : Byte) (s : State) : Out :=
  readInstr (.memory (.zeroPageX zz)) 4 false subA s

/-- SBC absolute (R155). -/
def execSbcAbs (a : Word) (s : State) : Out :=
  readInstr (.memory (.absolute a)) 4 false subA s

/-- SBC absolute-X (R155). -/
def execSbcAbx (a : Word) (s : State) : Out :=
  readInstr (.memory (.absoluteX a)) 4 true subA s

/-- SBC absolute-Y (R155). -/
def execSbcAby (a : Word) (s : State) : Out :=
  readInstr (.memory (.absoluteY a)) 4 true subA s

/-- SBC indexed-indirect (R155). -/
def execSbcIzx (zz : Byte) (s : State) : Out :=
  readInstr (.memory (.indexedIndirect zz)) 6 false subA s

/-- SBC indirect-indexed (R155). -/
def execSbcIzy (zz : Byte) (s : State) : Out :=
  readInstr (.memory (.indirectIndexed zz)) 5 true subA s

/-- CMP immediate (R156). -/
def execCmpImm (b : Byte) (s : State) : Out :=
  readInstr (.immediate b) 2 false compareA s

/-- CMP zero-page (R156). -/
def execCmpZp0 (zz : Byte) (s : State) : Out :=
  readInstr (.memory (.zeroPage zz)) 3 false compareA s

/-- CMP zero-page-X (R156). -/
def execCmpZpx (zz : Byte) (s : State) : Out :=
  readInstr (.memory (.zeroPageX zz)) 4 false compareA s

/-- CMP absolute (R156). -/
def execCmpAbs (a : Word) (s : State) : Out :=
  readInstr (.memory (.absolute a)) 4 false compareA s

/-- CMP absolute-X (R156). -/
def execCmpAbx (a : Word) (s : State) : Out :=
  readInstr (.memory (.absoluteX a)) 4 true compareA s

/-- CMP absolute-Y (R156). -/
def execCmpAby (a : Word) (s : State) : Out :=
  readInstr (.memory (.absoluteY a)) 4 true compareA s

/-- CMP indexed-indirect (R156). -/
def execCmpIzx (zz : Byte) (s : State) : Out :=
  readInstr (.memory (.indexedIndirect zz)) 6 false compareA s

/-- CMP indirect-indexed (R156). -/
def execCmpIzy (zz : Byte) (s : State) : Out :=
  readInstr (.memory (.indirectIndexed zz)) 5 true compareA s

/-- CPX immediate (R157). -/
def execCpxImm (b : Byte) (s : State) : Out :=
  readInstr (.immediate b) 2 false compareX s

/-- CPX zero-page (R157). -/
def execCpxZp0 (zz : Byte) (s : State) : Out :=
  readInstr (.memory (.zeroPage zz)) 3 false compareX s

/-- CPX absolute (R157). -/
def execCpxAbs (a : Word) (s : State) : Out :=
  readInstr (.memory (.absolute a)) 4 false compareX s

/-- CPY immediate (R158). -/
def execCpyImm (b : Byte) (s : State) : Out :=
  readInstr (.immediate b) 2 false compareY s

/-- CPY zero-page (R158). -/
def execCpyZp0 (zz : Byte) (s : State) : Out :=
  readInstr (.memory (.zeroPage zz)) 3 false compareY s

/-- CPY absolute (R158). -/
def execCpyAbs (a : Word) (s : State) : Out :=
  readInstr (.memory (.absolute a)) 4 false compareY s

/-- INC zero-page (R159). -/
def execIncZp0 (zz : Byte) (s : State) : Out :=
  modifyMemory (.zeroPage zz) 5 increment s

/-- INC zero-page-X (R159). -/
def execIncZpx (zz : Byte) (s : State) : Out :=
  modifyMemory (.zeroPageX zz) 6 increment s

/-- INC absolute (R159). -/
def execIncAbs (a : Word) (s : State) : Out :=
  modifyMemory (.absolute a) 6 increment s

/-- INC absolute-X (R159). -/
def execIncAbx (a : Word) (s : State) : Out :=
  modifyMemory (.absoluteX a) 7 increment s

/-- DEC zero-page (R160). -/
def execDecZp0 (zz : Byte) (s : State) : Out :=
  modifyMemory (.zeroPage zz) 5 decrement s

/-- DEC zero-page-X (R160). -/
def execDecZpx (zz : Byte) (s : State) : Out :=
  modifyMemory (.zeroPageX zz) 6 decrement s

/-- DEC absolute (R160). -/
def execDecAbs (a : Word) (s : State) : Out :=
  modifyMemory (.absolute a) 6 decrement s

/-- DEC absolute-X (R160). -/
def execDecAbx (a : Word) (s : State) : Out :=
  modifyMemory (.absoluteX a) 7 decrement s

/-- INX (R161). -/
def execInx (s : State) : Out :=
  registerInstr 2 (fun c => loadX (c.x + 1) c) s

/-- INY (R162). -/
def execIny (s : State) : Out :=
  registerInstr 2 (fun c => loadY (c.y + 1) c) s

/-- DEX (R163). -/
def execDex (s : State) : Out :=
  registerInstr 2 (fun c => loadX (c.x - 1) c) s

/-- DEY (R164). -/
def execDey (s : State) : Out :=
  registerInstr 2 (fun c => loadY (c.y - 1) c) s

end Sys2Proof.Machine
end

