-- ==== Sys2Proof/Machine/Control.lean ====
section
/-! DEFINITION. The meanings of spec/46_control_transfer.md R165 to R177. Each runs with PC at the next
instruction and its operand bytes read (log 1), and loads its cost into the countdown (R101, R103). -/

namespace Sys2Proof.Machine

/-- BPL (R165). -/
def execBpl (rr : Byte) (s : State) : Out :=
  branchInstr 2 (fun p => !p.n) rr s

/-- BMI (R166). -/
def execBmi (rr : Byte) (s : State) : Out :=
  branchInstr 2 (fun p => p.n) rr s

/-- BVC (R167). -/
def execBvc (rr : Byte) (s : State) : Out :=
  branchInstr 2 (fun p => !p.v) rr s

/-- BVS (R168). -/
def execBvs (rr : Byte) (s : State) : Out :=
  branchInstr 2 (fun p => p.v) rr s

/-- BCC (R169). -/
def execBcc (rr : Byte) (s : State) : Out :=
  branchInstr 2 (fun p => !p.c) rr s

/-- BCS (R170). -/
def execBcs (rr : Byte) (s : State) : Out :=
  branchInstr 2 (fun p => p.c) rr s

/-- BNE (R171). -/
def execBne (rr : Byte) (s : State) : Out :=
  branchInstr 2 (fun p => !p.z) rr s

/-- BEQ (R172). -/
def execBeq (rr : Byte) (s : State) : Out :=
  branchInstr 2 (fun p => p.z) rr s

/-- JMP absolute (R173). -/
def execJmpAbs (a : Word) (s : State) : Out :=
  .next ((s.setPc a).setCycles 3)

/-- JMP indirect (R173). -/
def execJmpInd (a : Word) (s : State) : Out :=
  complete ((indirectTarget a s).bind fun ea s1 => .ok () (s1.setPc ea)) 5

/-- JSR absolute (R174). -/
def execJsr (a : Word) (s : State) : Out :=
  complete ((push16 (s.cpu.pc - 1) s).bind fun _ s1 => .ok () (s1.setPc a)) 6

/-- RTS (R175). -/
def execRts (s : State) : Out :=
  complete ((pull16 s).bind fun w s1 => .ok () (s1.setPc (w + 1))) 6

/-- BRK (R176). -/
def execBrk (s : State) : Out :=
  complete (enter (s.cpu.pc + 1) true irqVector s) 7

/-- RTI (R177). -/
def execRti (s : State) : Out :=
  complete (leave s) 6

end Sys2Proof.Machine
end

