-- ==== Sys2Proof/Machine/FlagOps.lean ====
section
/-! DEFINITION. The meanings of spec/47_flag_ops_nop.md R178 to R185. Each runs with PC at the next
instruction and its operand bytes read (log 1), and loads its cost into the countdown (R101, R103). -/

namespace Sys2Proof.Machine

/-- CLC (R178). -/
def execClc (s : State) : Out :=
  registerInstr 2 (fun c => { c with p := { c.p with c := false } }) s

/-- SEC (R179). -/
def execSec (s : State) : Out :=
  registerInstr 2 (fun c => { c with p := { c.p with c := true } }) s

/-- CLI (R180). -/
def execCli (s : State) : Out :=
  registerInstr 2 (fun c => { c with p := { c.p with i := false } }) s

/-- SEI (R181). -/
def execSei (s : State) : Out :=
  registerInstr 2 (fun c => { c with p := { c.p with i := true } }) s

/-- CLD (R182). -/
def execCld (s : State) : Out :=
  registerInstr 2 (fun c => { c with p := { c.p with d := false } }) s

/-- SED (R183). -/
def execSed (s : State) : Out :=
  registerInstr 2 (fun c => { c with p := { c.p with d := true } }) s

/-- CLV (R184). -/
def execClv (s : State) : Out :=
  registerInstr 2 (fun c => { c with p := { c.p with v := false } }) s

/-- NOP (R185). -/
def execNop (s : State) : Out :=
  registerInstr 2 (fun c => c) s

end Sys2Proof.Machine
end

