-- ==== Sys2Proof/Machine/Logic.lean ====
section
/-! DEFINITION. The meanings of spec/44_logical_shift.md R146 to R153. Each runs with PC at the next
instruction and its operand bytes read (log 1), and loads its cost into the countdown (R101, R103). -/

namespace Sys2Proof.Machine

/-- `A <- A & m; SetNZ` (R146). -/
def andA (m : Byte) (c : Cpu) : Cpu := { c with a := c.a &&& m, p := c.p.setNZ (c.a &&& m) }

/-- `A <- A | m; SetNZ` (R147). -/
def orA (m : Byte) (c : Cpu) : Cpu := { c with a := c.a ||| m, p := c.p.setNZ (c.a ||| m) }

/-- `A <- A ^ m; SetNZ` (R148). -/
def eorA (m : Byte) (c : Cpu) : Cpu := { c with a := c.a ^^^ m, p := c.p.setNZ (c.a ^^^ m) }

/-- Z from `A & m`, N and V from `m`; A is not written (R149). -/
def bitA (m : Byte) (c : Cpu) : Cpu := { c with p := c.p.afterBit c.a m }

/-- AND immediate (R146). -/
def execAndImm (b : Byte) (s : State) : Out :=
  readInstr (.immediate b) 2 false andA s

/-- AND zero-page (R146). -/
def execAndZp0 (zz : Byte) (s : State) : Out :=
  readInstr (.memory (.zeroPage zz)) 3 false andA s

/-- AND zero-page-X (R146). -/
def execAndZpx (zz : Byte) (s : State) : Out :=
  readInstr (.memory (.zeroPageX zz)) 4 false andA s

/-- AND absolute (R146). -/
def execAndAbs (a : Word) (s : State) : Out :=
  readInstr (.memory (.absolute a)) 4 false andA s

/-- AND absolute-X (R146). -/
def execAndAbx (a : Word) (s : State) : Out :=
  readInstr (.memory (.absoluteX a)) 4 true andA s

/-- AND absolute-Y (R146). -/
def execAndAby (a : Word) (s : State) : Out :=
  readInstr (.memory (.absoluteY a)) 4 true andA s

/-- AND indexed-indirect (R146). -/
def execAndIzx (zz : Byte) (s : State) : Out :=
  readInstr (.memory (.indexedIndirect zz)) 6 false andA s

/-- AND indirect-indexed (R146). -/
def execAndIzy (zz : Byte) (s : State) : Out :=
  readInstr (.memory (.indirectIndexed zz)) 5 true andA s

/-- ORA immediate (R147). -/
def execOraImm (b : Byte) (s : State) : Out :=
  readInstr (.immediate b) 2 false orA s

/-- ORA zero-page (R147). -/
def execOraZp0 (zz : Byte) (s : State) : Out :=
  readInstr (.memory (.zeroPage zz)) 3 false orA s

/-- ORA zero-page-X (R147). -/
def execOraZpx (zz : Byte) (s : State) : Out :=
  readInstr (.memory (.zeroPageX zz)) 4 false orA s

/-- ORA absolute (R147). -/
def execOraAbs (a : Word) (s : State) : Out :=
  readInstr (.memory (.absolute a)) 4 false orA s

/-- ORA absolute-X (R147). -/
def execOraAbx (a : Word) (s : State) : Out :=
  readInstr (.memory (.absoluteX a)) 4 true orA s

/-- ORA absolute-Y (R147). -/
def execOraAby (a : Word) (s : State) : Out :=
  readInstr (.memory (.absoluteY a)) 4 true orA s

/-- ORA indexed-indirect (R147). -/
def execOraIzx (zz : Byte) (s : State) : Out :=
  readInstr (.memory (.indexedIndirect zz)) 6 false orA s

/-- ORA indirect-indexed (R147). -/
def execOraIzy (zz : Byte) (s : State) : Out :=
  readInstr (.memory (.indirectIndexed zz)) 5 true orA s

/-- EOR immediate (R148). -/
def execEorImm (b : Byte) (s : State) : Out :=
  readInstr (.immediate b) 2 false eorA s

/-- EOR zero-page (R148). -/
def execEorZp0 (zz : Byte) (s : State) : Out :=
  readInstr (.memory (.zeroPage zz)) 3 false eorA s

/-- EOR zero-page-X (R148). -/
def execEorZpx (zz : Byte) (s : State) : Out :=
  readInstr (.memory (.zeroPageX zz)) 4 false eorA s

/-- EOR absolute (R148). -/
def execEorAbs (a : Word) (s : State) : Out :=
  readInstr (.memory (.absolute a)) 4 false eorA s

/-- EOR absolute-X (R148). -/
def execEorAbx (a : Word) (s : State) : Out :=
  readInstr (.memory (.absoluteX a)) 4 true eorA s

/-- EOR absolute-Y (R148). -/
def execEorAby (a : Word) (s : State) : Out :=
  readInstr (.memory (.absoluteY a)) 4 true eorA s

/-- EOR indexed-indirect (R148). -/
def execEorIzx (zz : Byte) (s : State) : Out :=
  readInstr (.memory (.indexedIndirect zz)) 6 false eorA s

/-- EOR indirect-indexed (R148). -/
def execEorIzy (zz : Byte) (s : State) : Out :=
  readInstr (.memory (.indirectIndexed zz)) 5 true eorA s

/-- BIT zero-page (R149). -/
def execBitZp0 (zz : Byte) (s : State) : Out :=
  readInstr (.memory (.zeroPage zz)) 3 false bitA s

/-- BIT absolute (R149). -/
def execBitAbs (a : Word) (s : State) : Out :=
  readInstr (.memory (.absolute a)) 4 false bitA s

/-- ASL accumulator (R150). -/
def execAslAcc (s : State) : Out :=
  modifyAccumulator 2 shiftLeft s

/-- ASL zero-page (R150). -/
def execAslZp0 (zz : Byte) (s : State) : Out :=
  modifyMemory (.zeroPage zz) 5 shiftLeft s

/-- ASL zero-page-X (R150). -/
def execAslZpx (zz : Byte) (s : State) : Out :=
  modifyMemory (.zeroPageX zz) 6 shiftLeft s

/-- ASL absolute (R150). -/
def execAslAbs (a : Word) (s : State) : Out :=
  modifyMemory (.absolute a) 6 shiftLeft s

/-- ASL absolute-X (R150). -/
def execAslAbx (a : Word) (s : State) : Out :=
  modifyMemory (.absoluteX a) 7 shiftLeft s

/-- LSR accumulator (R151). -/
def execLsrAcc (s : State) : Out :=
  modifyAccumulator 2 shiftRight s

/-- LSR zero-page (R151). -/
def execLsrZp0 (zz : Byte) (s : State) : Out :=
  modifyMemory (.zeroPage zz) 5 shiftRight s

/-- LSR zero-page-X (R151). -/
def execLsrZpx (zz : Byte) (s : State) : Out :=
  modifyMemory (.zeroPageX zz) 6 shiftRight s

/-- LSR absolute (R151). -/
def execLsrAbs (a : Word) (s : State) : Out :=
  modifyMemory (.absolute a) 6 shiftRight s

/-- LSR absolute-X (R151). -/
def execLsrAbx (a : Word) (s : State) : Out :=
  modifyMemory (.absoluteX a) 7 shiftRight s

/-- ROL accumulator (R152). -/
def execRolAcc (s : State) : Out :=
  modifyAccumulator 2 rotateLeft s

/-- ROL zero-page (R152). -/
def execRolZp0 (zz : Byte) (s : State) : Out :=
  modifyMemory (.zeroPage zz) 5 rotateLeft s

/-- ROL zero-page-X (R152). -/
def execRolZpx (zz : Byte) (s : State) : Out :=
  modifyMemory (.zeroPageX zz) 6 rotateLeft s

/-- ROL absolute (R152). -/
def execRolAbs (a : Word) (s : State) : Out :=
  modifyMemory (.absolute a) 6 rotateLeft s

/-- ROL absolute-X (R152). -/
def execRolAbx (a : Word) (s : State) : Out :=
  modifyMemory (.absoluteX a) 7 rotateLeft s

/-- ROR accumulator (R153). -/
def execRorAcc (s : State) : Out :=
  modifyAccumulator 2 rotateRight s

/-- ROR zero-page (R153). -/
def execRorZp0 (zz : Byte) (s : State) : Out :=
  modifyMemory (.zeroPage zz) 5 rotateRight s

/-- ROR zero-page-X (R153). -/
def execRorZpx (zz : Byte) (s : State) : Out :=
  modifyMemory (.zeroPageX zz) 6 rotateRight s

/-- ROR absolute (R153). -/
def execRorAbs (a : Word) (s : State) : Out :=
  modifyMemory (.absolute a) 6 rotateRight s

/-- ROR absolute-X (R153). -/
def execRorAbx (a : Word) (s : State) : Out :=
  modifyMemory (.absoluteX a) 7 rotateRight s

end Sys2Proof.Machine
end

