-- ==== Sys2Proof/Machine/Stack.lean ====
section
/-! DEFINITION. The meanings of spec/43_stack.md R142 to R145. Each runs with PC at the next
instruction and its operand bytes read (log 1), and loads its cost into the countdown (R101, R103). -/

namespace Sys2Proof.Machine

/-- PHA (R142). -/
def execPha (s : State) : Out :=
  complete (push s.cpu.a s) 3

/-- PHP (R143). -/
def execPhp (s : State) : Out :=
  complete (push (s.cpu.p.toByte ||| 0x30) s) 3

/-- PLA (R144). -/
def execPla (s : State) : Out :=
  complete ((pull s).bind fun r s1 => .ok () (s1.setCpu (loadA r s1.cpu))) 4

/-- PLP (R145). -/
def execPlp (s : State) : Out :=
  complete ((pull s).bind fun r s1 => .ok () (s1.setP (Flags.ofPulled r))) 4

end Sys2Proof.Machine
end

