-- ==== Sys2Proof/Machine/Dispatch.lean ====
section
/-! DEFINITION. The meaning of each instruction, one arm per constructor of Instr. -/

namespace Sys2Proof.Machine

def exec (i : Instr) (s : State) : Host.Outcome State Fault Refusal :=
  match i with
  | .ldaImm b => Sys2Proof.Machine.execLdaImm b s
  | .ldaZp0 zz => Sys2Proof.Machine.execLdaZp0 zz s
  | .ldaZpx zz => Sys2Proof.Machine.execLdaZpx zz s
  | .ldaAbs a => Sys2Proof.Machine.execLdaAbs a s
  | .ldaAbx a => Sys2Proof.Machine.execLdaAbx a s
  | .ldaAby a => Sys2Proof.Machine.execLdaAby a s
  | .ldaIzx zz => Sys2Proof.Machine.execLdaIzx zz s
  | .ldaIzy zz => Sys2Proof.Machine.execLdaIzy zz s
  | .ldxImm b => Sys2Proof.Machine.execLdxImm b s
  | .ldxZp0 zz => Sys2Proof.Machine.execLdxZp0 zz s
  | .ldxZpy zz => Sys2Proof.Machine.execLdxZpy zz s
  | .ldxAbs a => Sys2Proof.Machine.execLdxAbs a s
  | .ldxAby a => Sys2Proof.Machine.execLdxAby a s
  | .ldyImm b => Sys2Proof.Machine.execLdyImm b s
  | .ldyZp0 zz => Sys2Proof.Machine.execLdyZp0 zz s
  | .ldyZpx zz => Sys2Proof.Machine.execLdyZpx zz s
  | .ldyAbs a => Sys2Proof.Machine.execLdyAbs a s
  | .ldyAbx a => Sys2Proof.Machine.execLdyAbx a s
  | .staZp0 zz => Sys2Proof.Machine.execStaZp0 zz s
  | .staZpx zz => Sys2Proof.Machine.execStaZpx zz s
  | .staAbs a => Sys2Proof.Machine.execStaAbs a s
  | .staAbx a => Sys2Proof.Machine.execStaAbx a s
  | .staAby a => Sys2Proof.Machine.execStaAby a s
  | .staIzx zz => Sys2Proof.Machine.execStaIzx zz s
  | .staIzy zz => Sys2Proof.Machine.execStaIzy zz s
  | .stxZp0 zz => Sys2Proof.Machine.execStxZp0 zz s
  | .stxZpy zz => Sys2Proof.Machine.execStxZpy zz s
  | .stxAbs a => Sys2Proof.Machine.execStxAbs a s
  | .styZp0 zz => Sys2Proof.Machine.execStyZp0 zz s
  | .styZpx zz => Sys2Proof.Machine.execStyZpx zz s
  | .styAbs a => Sys2Proof.Machine.execStyAbs a s
  | .tax => Sys2Proof.Machine.execTax s
  | .tay => Sys2Proof.Machine.execTay s
  | .txa => Sys2Proof.Machine.execTxa s
  | .tya => Sys2Proof.Machine.execTya s
  | .tsx => Sys2Proof.Machine.execTsx s
  | .txs => Sys2Proof.Machine.execTxs s
  | .pha => Sys2Proof.Machine.execPha s
  | .php => Sys2Proof.Machine.execPhp s
  | .pla => Sys2Proof.Machine.execPla s
  | .plp => Sys2Proof.Machine.execPlp s
  | .andImm b => Sys2Proof.Machine.execAndImm b s
  | .andZp0 zz => Sys2Proof.Machine.execAndZp0 zz s
  | .andZpx zz => Sys2Proof.Machine.execAndZpx zz s
  | .andAbs a => Sys2Proof.Machine.execAndAbs a s
  | .andAbx a => Sys2Proof.Machine.execAndAbx a s
  | .andAby a => Sys2Proof.Machine.execAndAby a s
  | .andIzx zz => Sys2Proof.Machine.execAndIzx zz s
  | .andIzy zz => Sys2Proof.Machine.execAndIzy zz s
  | .oraImm b => Sys2Proof.Machine.execOraImm b s
  | .oraZp0 zz => Sys2Proof.Machine.execOraZp0 zz s
  | .oraZpx zz => Sys2Proof.Machine.execOraZpx zz s
  | .oraAbs a => Sys2Proof.Machine.execOraAbs a s
  | .oraAbx a => Sys2Proof.Machine.execOraAbx a s
  | .oraAby a => Sys2Proof.Machine.execOraAby a s
  | .oraIzx zz => Sys2Proof.Machine.execOraIzx zz s
  | .oraIzy zz => Sys2Proof.Machine.execOraIzy zz s
  | .eorImm b => Sys2Proof.Machine.execEorImm b s
  | .eorZp0 zz => Sys2Proof.Machine.execEorZp0 zz s
  | .eorZpx zz => Sys2Proof.Machine.execEorZpx zz s
  | .eorAbs a => Sys2Proof.Machine.execEorAbs a s
  | .eorAbx a => Sys2Proof.Machine.execEorAbx a s
  | .eorAby a => Sys2Proof.Machine.execEorAby a s
  | .eorIzx zz => Sys2Proof.Machine.execEorIzx zz s
  | .eorIzy zz => Sys2Proof.Machine.execEorIzy zz s
  | .bitZp0 zz => Sys2Proof.Machine.execBitZp0 zz s
  | .bitAbs a => Sys2Proof.Machine.execBitAbs a s
  | .aslAcc => Sys2Proof.Machine.execAslAcc s
  | .aslZp0 zz => Sys2Proof.Machine.execAslZp0 zz s
  | .aslZpx zz => Sys2Proof.Machine.execAslZpx zz s
  | .aslAbs a => Sys2Proof.Machine.execAslAbs a s
  | .aslAbx a => Sys2Proof.Machine.execAslAbx a s
  | .lsrAcc => Sys2Proof.Machine.execLsrAcc s
  | .lsrZp0 zz => Sys2Proof.Machine.execLsrZp0 zz s
  | .lsrZpx zz => Sys2Proof.Machine.execLsrZpx zz s
  | .lsrAbs a => Sys2Proof.Machine.execLsrAbs a s
  | .lsrAbx a => Sys2Proof.Machine.execLsrAbx a s
  | .rolAcc => Sys2Proof.Machine.execRolAcc s
  | .rolZp0 zz => Sys2Proof.Machine.execRolZp0 zz s
  | .rolZpx zz => Sys2Proof.Machine.execRolZpx zz s
  | .rolAbs a => Sys2Proof.Machine.execRolAbs a s
  | .rolAbx a => Sys2Proof.Machine.execRolAbx a s
  | .rorAcc => Sys2Proof.Machine.execRorAcc s
  | .rorZp0 zz => Sys2Proof.Machine.execRorZp0 zz s
  | .rorZpx zz => Sys2Proof.Machine.execRorZpx zz s
  | .rorAbs a => Sys2Proof.Machine.execRorAbs a s
  | .rorAbx a => Sys2Proof.Machine.execRorAbx a s
  | .adcImm b => Sys2Proof.Machine.execAdcImm b s
  | .adcZp0 zz => Sys2Proof.Machine.execAdcZp0 zz s
  | .adcZpx zz => Sys2Proof.Machine.execAdcZpx zz s
  | .adcAbs a => Sys2Proof.Machine.execAdcAbs a s
  | .adcAbx a => Sys2Proof.Machine.execAdcAbx a s
  | .adcAby a => Sys2Proof.Machine.execAdcAby a s
  | .adcIzx zz => Sys2Proof.Machine.execAdcIzx zz s
  | .adcIzy zz => Sys2Proof.Machine.execAdcIzy zz s
  | .sbcImm b => Sys2Proof.Machine.execSbcImm b s
  | .sbcZp0 zz => Sys2Proof.Machine.execSbcZp0 zz s
  | .sbcZpx zz => Sys2Proof.Machine.execSbcZpx zz s
  | .sbcAbs a => Sys2Proof.Machine.execSbcAbs a s
  | .sbcAbx a => Sys2Proof.Machine.execSbcAbx a s
  | .sbcAby a => Sys2Proof.Machine.execSbcAby a s
  | .sbcIzx zz => Sys2Proof.Machine.execSbcIzx zz s
  | .sbcIzy zz => Sys2Proof.Machine.execSbcIzy zz s
  | .cmpImm b => Sys2Proof.Machine.execCmpImm b s
  | .cmpZp0 zz => Sys2Proof.Machine.execCmpZp0 zz s
  | .cmpZpx zz => Sys2Proof.Machine.execCmpZpx zz s
  | .cmpAbs a => Sys2Proof.Machine.execCmpAbs a s
  | .cmpAbx a => Sys2Proof.Machine.execCmpAbx a s
  | .cmpAby a => Sys2Proof.Machine.execCmpAby a s
  | .cmpIzx zz => Sys2Proof.Machine.execCmpIzx zz s
  | .cmpIzy zz => Sys2Proof.Machine.execCmpIzy zz s
  | .cpxImm b => Sys2Proof.Machine.execCpxImm b s
  | .cpxZp0 zz => Sys2Proof.Machine.execCpxZp0 zz s
  | .cpxAbs a => Sys2Proof.Machine.execCpxAbs a s
  | .cpyImm b => Sys2Proof.Machine.execCpyImm b s
  | .cpyZp0 zz => Sys2Proof.Machine.execCpyZp0 zz s
  | .cpyAbs a => Sys2Proof.Machine.execCpyAbs a s
  | .incZp0 zz => Sys2Proof.Machine.execIncZp0 zz s
  | .incZpx zz => Sys2Proof.Machine.execIncZpx zz s
  | .incAbs a => Sys2Proof.Machine.execIncAbs a s
  | .incAbx a => Sys2Proof.Machine.execIncAbx a s
  | .decZp0 zz => Sys2Proof.Machine.execDecZp0 zz s
  | .decZpx zz => Sys2Proof.Machine.execDecZpx zz s
  | .decAbs a => Sys2Proof.Machine.execDecAbs a s
  | .decAbx a => Sys2Proof.Machine.execDecAbx a s
  | .inx => Sys2Proof.Machine.execInx s
  | .iny => Sys2Proof.Machine.execIny s
  | .dex => Sys2Proof.Machine.execDex s
  | .dey => Sys2Proof.Machine.execDey s
  | .bpl rr => Sys2Proof.Machine.execBpl rr s
  | .bmi rr => Sys2Proof.Machine.execBmi rr s
  | .bvc rr => Sys2Proof.Machine.execBvc rr s
  | .bvs rr => Sys2Proof.Machine.execBvs rr s
  | .bcc rr => Sys2Proof.Machine.execBcc rr s
  | .bcs rr => Sys2Proof.Machine.execBcs rr s
  | .bne rr => Sys2Proof.Machine.execBne rr s
  | .beq rr => Sys2Proof.Machine.execBeq rr s
  | .jmpAbs a => Sys2Proof.Machine.execJmpAbs a s
  | .jmpInd a => Sys2Proof.Machine.execJmpInd a s
  | .jsr a => Sys2Proof.Machine.execJsr a s
  | .rts => Sys2Proof.Machine.execRts s
  | .brk => Sys2Proof.Machine.execBrk s
  | .rti => Sys2Proof.Machine.execRti s
  | .clc => Sys2Proof.Machine.execClc s
  | .sec => Sys2Proof.Machine.execSec s
  | .cli => Sys2Proof.Machine.execCli s
  | .sei => Sys2Proof.Machine.execSei s
  | .cld => Sys2Proof.Machine.execCld s
  | .sed => Sys2Proof.Machine.execSed s
  | .clv => Sys2Proof.Machine.execClv s
  | .nop => Sys2Proof.Machine.execNop s

end Sys2Proof.Machine
end

