-- ==== Sys2Proof/Machine/PpuRender.lean ====
section
/-! DEFINITION. The PPU rendering state machine (spec/49_ppu_rendering.md R210 to R239): one dot per `clock()`. -/

namespace Sys2Proof.Machine

/-- `RenderingEnabled()` (R213). -/
def renderingEnabled (p : Ppu) : Bool := p.mask.getLsbD 3 || p.mask.getLsbD 4

/-! ## Scroll arithmetic on `v` -/

/-- `IncrementX()` (R214). -/
def incrementX (v : BitVec 15) : BitVec 15 :=
  if v &&& 0x001F = 31 then (v &&& 0x7FE0) ^^^ 0x0400 else v + 1

/-- The coarse Y step of R215 on a `v` whose fine Y is already 0. -/
def incrementCoarseY (v : BitVec 15) : BitVec 15 :=
  let cy := v.extractLsb' 5 5
  if cy = 29 then (v ^^^ 0x0800) &&& 0x7C1F
  else if cy = 31 then v &&& 0x7C1F
  else (v &&& 0x7C1F#15) ||| ((cy + 1).setWidth 15 <<< 5)

/-- `IncrementY()` (R215): fine Y first, then coarse Y. -/
def incrementY (v : BitVec 15) : BitVec 15 :=
  if v.extractLsb' 12 3 ≠ 7 then v + 0x1000 else incrementCoarseY (v &&& 0x0FFF)

/-- The horizontal bits of `t` copied into `v` (R216). -/
def horizontalCopy (v t : BitVec 15) : BitVec 15 := (v &&& 0x7BE0) ||| (t &&& 0x041F)

/-- The vertical bits of `t` copied into `v` (R217). -/
def verticalCopy (v t : BitVec 15) : BitVec 15 := (v &&& 0x041F) ||| (t &&& 0x7BE0)

/-! ## Fetch addresses -/

/-- The nametable address (R220). -/
def nametableAddress (v : BitVec 15) : BitVec 14 := 0x2000 ||| (v &&& 0x0FFF).setWidth 14

/-- The attribute address (R221). -/
def attributeAddress (v : BitVec 15) : BitVec 14 :=
  0x23C0#14 ||| (v &&& 0x0C00).setWidth 14 ||| ((v.extractLsb' 5 5 >>> 2).setWidth 14 <<< 3) |||
    (v.extractLsb' 0 5 >>> 2).setWidth 14

/-- The shift that selects the tile's quadrant: 0, 2, 4 or 6 (R221). -/
def attributeShift (v : BitVec 15) : Nat :=
  (((v.extractLsb' 5 5 &&& 0x02) <<< 1) ||| (v.extractLsb' 0 5 &&& 0x02)).toNat

/-- The address of the low pattern plane of the fetched tile's row (R222). -/
def patternAddress (p : Ppu) : BitVec 14 :=
  ((BitVec.ofBool (p.ctrl.getLsbD 4)).setWidth 14 <<< 12) ||| (p.bgNextNt.setWidth 14 <<< 4) |||
    (p.v.extractLsb' 12 3).setWidth 14

/-! ## The background pipeline -/

/-- `Shift()` (R225). -/
def shiftRegisters (p : Ppu) : Ppu :=
  { p with
    shPtLo := p.shPtLo <<< 1
    shPtHi := p.shPtHi <<< 1
    shAtLo := p.shAtLo <<< 1
    shAtHi := p.shAtHi <<< 1 }

/-- The low byte an attribute plane is reloaded with: its bit, eight times (R226). -/
def spreadBit (b : Bool) : BitVec 16 := if b then 0x00FF else 0x0000

/-- `Reload()` (R226). -/
def reloadRegisters (p : Ppu) : Ppu :=
  { p with
    shPtLo := (p.shPtLo &&& 0xFF00) ||| p.bgNextLo.setWidth 16
    shPtHi := (p.shPtHi &&& 0xFF00) ||| p.bgNextHi.setWidth 16
    shAtLo := (p.shAtLo &&& 0xFF00) ||| spreadBit (p.bgNextAt.getLsbD 0)
    shAtHi := (p.shAtHi &&& 0xFF00) ||| spreadBit (p.bgNextAt.getLsbD 1) }

/-- Act on the picture core's registers alone. -/
def State.mapPpu (f : Ppu → Ppu) (s : State) : State := { s with ppu := f s.ppu }

/-- Nametable fetch (R220). -/
def fetchNametable (s : State) : State :=
  let q := ppuBusRead (nametableAddress s.ppu.v) s
  q.2.mapPpu fun p => { p with bgNextNt := q.1 }

/-- Attribute fetch (R221). -/
def fetchAttribute (s : State) : State :=
  let q := ppuBusRead (attributeAddress s.ppu.v) s
  q.2.mapPpu fun p => { p with bgNextAt := (q.1 >>> attributeShift s.ppu.v).setWidth 2 }

/-- Pattern low fetch (R222). -/
def fetchPatternLow (s : State) : State :=
  let q := ppuBusRead (patternAddress s.ppu) s
  q.2.mapPpu fun p => { p with bgNextLo := q.1 }

/-- Pattern high fetch (R223). -/
def fetchPatternHigh (s : State) : State :=
  let q := ppuBusRead (patternAddress s.ppu + 8) s
  q.2.mapPpu fun p => { p with bgNextHi := q.1 }

/-- Whether the shift registers shift at a dot (R224). -/
def shiftDot (d : Nat) : Bool := (2 ≤ d && d ≤ 257) || (322 ≤ d && d ≤ 337)

/-- Whether they are reloaded at a dot: 9, 17, ..., 257, 329 and 337 (R224). -/
def reloadDot (d : Nat) : Bool := (9 ≤ d && d ≤ 257 && d % 8 == 1) || d == 329 || d == 337

/-- Whether a dot belongs to a fetch group (R224). -/
def fetchDot (d : Nat) : Bool := (1 ≤ d && d ≤ 256) || (321 ≤ d && d ≤ 336)

/-- What a dot of a fetch group does, by its phase (R219, R224). -/
def fetchPhase (d : Nat) (s : State) : State :=
  match (d - 1) % 8 with
  | 0 => fetchNametable s
  | 2 => fetchAttribute s
  | 4 => fetchPatternLow s
  | 6 => fetchPatternHigh s
  | 7 => s.mapPpu fun p => { p with v := incrementX p.v }
  | _ => s

/-- The shift and then the reload of a dot (R224, R227). -/
def pipelineDot (d : Nat) (p : Ppu) : Ppu :=
  let p1 := if shiftDot d then shiftRegisters p else p
  if reloadDot d then reloadRegisters p1 else p1

/-- What a dot does to `v` after the fetch group: the Y increment, then the copies (R224, R227). -/
def scrollDot (line : Int) (d hcopyDot : Nat) (p : Ppu) : Ppu :=
  let v1 := if d = 256 then incrementY p.v else p.v
  let v2 := if d = hcopyDot then horizontalCopy v1 p.t else v1
  let v3 := if line = -1 ∧ 280 ≤ d ∧ d ≤ 304 then verticalCopy v2 p.t else v2
  { p with v := v3 }

/-- The two trailing nametable reads of a line, whose result is discarded (R224, D40). -/
def trailingRead (d : Nat) (s : State) : State :=
  if d = 337 ∨ d = 339 then (ppuBusRead (nametableAddress s.ppu.v) s).2 else s

/-- `BackgroundDot(line, d)` (R224). -/
def backgroundDot (line : Int) (d : Nat) (s : State) : State :=
  let s1 := s.mapPpu (pipelineDot d)
  let s2 := if fetchDot d then fetchPhase d s1 else s1
  let s3 := s2.mapPpu (scrollDot line d s.params.hcopyDot)
  trailingRead d s3

/-! ## Pixel composition -/

/-- The background pixel and palette fine X selects, as the index `(palette << 2) | pixel` (R229, R231). -/
def selectedIndex (p : Ppu) : BitVec 4 :=
  let b := 15 - p.x.toNat
  BitVec.ofBool (p.shAtHi.getLsbD b) ++ BitVec.ofBool (p.shAtLo.getLsbD b) ++
    BitVec.ofBool (p.shPtHi.getLsbD b) ++ BitVec.ofBool (p.shPtLo.getLsbD b)

/-- Whether the background is masked at a dot (R230). -/
def pixelMasked (p : Ppu) (d : Nat) : Bool := !p.mask.getLsbD 3 || (!p.mask.getLsbD 1 && decide (d - 1 < 8))

/-- The index emitted at a dot: 0 when masked or while rendering is disabled (R230, R231, D30). -/
def pixelIndex (p : Ppu) (d : Nat) : BitVec 4 :=
  if !renderingEnabled p || pixelMasked p d then 0 else selectedIndex p

/-- `EmitPixel(line, d)` (R231): the value for the frame buffer, and with it the greyscale bit of MASK, which the frame
buffer is handed and which has no effect on the index (R38, D38, log 28). -/
def emitPixel (line : Int) (d : Nat) (s : State) : State :=
  (s.emit (.pixel (d - 1) line (pixelIndex s.ppu d))).emit (.greyscale (s.ppu.mask.getLsbD 0))

/-! ## Status events -/

/-- Vblank set at (241, 1) (R233). -/
def vblankSet (s : State) : State := updateNmi (s.mapPpu fun p => { p with vblank := true })

/-- The clear at (-1, 1) (R234). -/
def preRenderClear (s : State) : State :=
  updateNmi (s.mapPpu fun p => { p with vblank := false, sprite0Hit := false, spriteOverflow := false })

/-- The draw of the sprite-zero bit (R235). -/
def drawSprite0 (s : State) : State :=
  s.nextDraw.mapPpu fun p => { p with sprite0Hit := p.sprite0Hit || Config.sprite0 s.draws }

/-- The draw of the sprite-overflow bit (R235). -/
def drawSpriteOverflow (s : State) : State :=
  s.nextDraw.mapPpu fun p => { p with spriteOverflow := p.spriteOverflow || Config.spriteOverflow s.draws }

/-- The sprite bits of a visible dot under `SPRITE_STATUS = Draw` (R235). -/
def spriteDraws (d : Nat) (s : State) : State :=
  let s1 := if 1 ≤ d ∧ d ≤ 256 ∧ s.ppu.mask.getLsbD 3 ∧ s.ppu.mask.getLsbD 4 then drawSprite0 s else s
  if renderingEnabled s1.ppu then drawSpriteOverflow s1 else s1

/-- `StatusEvents(line, d)` (R233, R234, R235). -/
def statusEvents (line : Int) (d : Nat) (s : State) : State :=
  if line = 241 ∧ d = 1 then vblankSet s
  else if line = -1 ∧ d = 1 then preRenderClear s
  else if 0 ≤ line ∧ line ≤ 239 ∧ s.params.spriteStatus = .draw then spriteDraws d s
  else s

/-- `Advance()` (R211). -/
def advance (p : Ppu) : Ppu :=
  if p.dot + 1 = 341 then
    { p with dot := 0, scanline := if p.scanline + 1 = 261 then -1 else p.scanline + 1 }
  else { p with dot := p.dot + 1 }

/-! ## The step -/

/-- The background part of a dot, run on lines -1..239 while rendering is enabled (R210, R213). -/
def renderDot (s : State) : State :=
  if -1 ≤ s.ppu.scanline ∧ s.ppu.scanline ≤ 239 ∧ renderingEnabled s.ppu then
    backgroundDot s.ppu.scanline s.ppu.dot s
  else s

/-- The pixel of a dot, on lines 0..239 and dots 1..256 (R210, R231). -/
def pixelDot (s : State) : State :=
  if 0 ≤ s.ppu.scanline ∧ s.ppu.scanline ≤ 239 ∧ 1 ≤ s.ppu.dot ∧ s.ppu.dot ≤ 256 then
    emitPixel s.ppu.scanline s.ppu.dot s
  else s

/-- The dot of a reset PPU (R210): background, pixel, status events, advance. -/
def ppuDot (s : State) : State :=
  let s1 := pixelDot (renderDot s)
  (statusEvents s1.ppu.scanline s1.ppu.dot s1).mapPpu advance

/-- PPU `clock()` (R210). -/
def ppuClock (s : State) : Res Unit :=
  if s.ppu.resetDone = false then .fault (.notReset .ppu) else .ok () (ppuDot s)

end Sys2Proof.Machine
end

