-- ==== Sys2Proof/Machine/Engine.lean ====
section
/-! DEFINITION. The processor's step (spec/40_cpu_engine.md R100 to R105), the two resets (spec/70_reset_and_hazards.md
R260, R262), and one call of the host (spec/60_exceptions.md R257). -/

namespace Sys2Proof.Machine

/-! ## Fetch and decode -/

/-- Read the next operand byte and move PC past it (R115). -/
def fetchByte (s : State) : Res Byte :=
  (memRead s.cpu.pc s).bind fun b s1 => .ok b (s1.setPc (s1.cpu.pc + 1))

/-- The opcode read, the lookup, and the operand reads in increasing address order (R74, R91, R101); PC is left at the
next instruction. An undefined opcode is refused before any register changes (R93). -/
def fetchInstr (s : State) : Res Instr :=
  (memRead s.cpu.pc s).bind fun op s1 =>
  match lookup op with
  | none => .refused (.undefinedOpcode op s.cpu.pc)
  | some (.one i) => .ok i (s1.setPc (s1.cpu.pc + 1))
  | some (.two f) =>
    (fetchByte (s1.setPc (s1.cpu.pc + 1))).bind fun b s2 => .ok (f b) s2
  | some (.three f) =>
    (fetchByte (s1.setPc (s1.cpu.pc + 1))).bind fun lo s2 =>
    (fetchByte s2).bind fun hi s3 => .ok (f (word16 hi lo)) s3

/-! ## CPU clock -/

/-- One whole instruction at a boundary (R101). -/
def runInstr (s : State) : Out :=
  match fetchInstr s with
  | .ok i s1 => exec i s1
  | .fault f => .fault f
  | .refused r => .refused r

/-- What a begin call does before the decrement (R101, R244, R245, R249). -/
def beginCall (s : State) : Out :=
  if s.nmiPending then complete (nmiEntry s) 7
  else if s.irqLine && !s.cpu.p.i then complete (irqEntry s) 7
  else runInstr s

/-- The decrement that ends every CPU call (R102). -/
def tick (o : Out) : Out :=
  match o with
  | .next s => .next (s.setCycles (s.cpu.cycles - 1))
  | .fault f => .fault f
  | .refused r => .refused r

/-- CPU `clock()` (R100, R101, R105). -/
def cpuClock (s : State) : Out :=
  if s.cpu.resetDone = false then .fault (.notReset .cpu)
  else if s.cpu.cycles = 0 then tick (beginCall s)
  else tick (.next s)

/-! ## The resets -/

/-- CPU `reset()` (R260). -/
def cpuReset (s : State) : Res Unit :=
  (memRead16 resetVector s).bind fun pc s1 =>
  .ok () { s1 with
    nmiPending := false
    cpu :=
      { a := s1.params.cpuResetRegs.a
        x := s1.params.cpuResetRegs.x
        y := s1.params.cpuResetRegs.y
        sp := s1.params.cpuResetRegs.sp
        p := s1.params.cpuResetRegs.p
        pc := pc
        cycles := s1.params.resetCycles
        resetDone := true } }

/-- PPU `reset()` (R262): every register of R51, and a fresh draw for the bytes of OAM. -/
def ppuReset (s : State) : State :=
  { s.nextDraw with
    ppu :=
      { ctrl := 0x00, mask := 0x00, vblank := false, sprite0Hit := false, spriteOverflow := false
        oamAddr := 0x00, oam := { cells := [], epoch := s.draws }, w := false, v := 0x0000, t := 0x0000, x := 0
        nmiOutputPrev := false, readBuffer := 0x00, bgNextNt := 0x00, bgNextAt := 0, bgNextLo := 0x00, bgNextHi := 0x00
        shPtLo := 0x0000, shPtHi := 0x0000, shAtLo := 0x0000, shAtHi := 0x0000
        scanline := s.params.ppuResetScanline, dot := s.params.ppuResetDot, resetDone := true } }

/-! ## One call of the host -/

/-- What one call of the host does (R257). -/
def runCall (c : HostCall) (s : State) : Out :=
  match c with
  | .cpuReset => (cpuReset s).finish
  | .cpuClock => cpuClock s
  | .ppuReset => .next (ppuReset s)
  | .ppuClock => (ppuClock s).finish
  | .ppuRead i => ((portRead i s).bind fun d s1 => .ok () (s1.emit (.portRead i d))).finish
  | .ppuWrite i d => (portWrite i d s).finish
  | .inspect => .next s
  | .setIrq level => .next { s with irqLine := level }

/-- The next call of the schedule and the calls that remain after it (R275, log 2); none when the host makes no call. -/
def nextCall (s : State) : Option (HostCall × List HostCall) :=
  match s.calls with
  | c :: rest => some (c, rest)
  | [] =>
    match s.loop with
    | c :: rest => some (c, rest)
    | [] => none

/-- The step of the block, all that R52 says is no state of it being an argument: the call the host's schedule makes, and the
input level, the buses, the constants and the draws the call goes by. It answers the block after the call, and the parameters
as the call left them (the history and the draws moved on). -/
def Block.step (c : HostCall) (e : StepParameters) (b : Block) : Out :=
  runCall c { toBlock := b, toStepParameters := e }

/-- The parameters a call starts with: the schedule without that call, and an empty list of transfers (log 2, log 12). -/
def StepParameters.start (rest : List HostCall) (e : StepParameters) : StepParameters := { e with calls := rest, io := [] }

/-- One step of the host's interface: the step of the block under the next call of the schedule; a host that makes no call
leaves the machine as it is (R257, R275, log 14, log 27). -/
def stepCall (s : State) : Out :=
  match nextCall s with
  | some (c, rest) => s.toBlock.step c (s.toStepParameters.start rest)
  | none => .next { s with io := [] }

/-! ## Placing an instruction -/

/-- Whether a fetch from an address answers the byte placed there: not an address of which nothing is assumed, and not the
window. -/
def fetchable (s : State) (a : Word) : Bool := s.ext.kindAt a.toNat != .free && !inWindow a

/-- The three addresses an instruction at `pc` can occupy (R85). -/
def instrAddresses (pc : Word) : List Word := [pc, pc + 1, pc + 2]

/-- ExtBus with the three bytes of an instruction placed at `pc`, whatever kind of region lies there. -/
def placeBytes (pc : Word) (w : Nat) (b : Bus) : Bus :=
  let cells0 := cellsWrite pc.toNat (tableByte w 0) b.cells
  let cells1 := cellsWrite (pc + 1).toNat (tableByte w 1) cells0
  { b with cells := cellsWrite (pc + 2).toNat (tableByte w 2) cells1 }

/-- The machine with an instruction placed where the next step fetches (log 11): at PC, or at 0x8000 with all of
ExtBus assumed to be RAM where a fetch at PC would not read what is placed; the CPU is at a boundary, reset, with no interrupt
to take, and its clock is the next call. -/
def placeInstr (s : State) (nbits w : Nat) : State :=
  let here := (instrAddresses s.cpu.pc).all (fetchable s)
  let pc : Word := if here then s.cpu.pc else 0x8000
  let ext : Bus := if here then s.ext else { s.ext with regions := [⟨0x0000, 0xFFFF, .ram⟩] }
  { s with
    cpu := { s.cpu with pc := pc, cycles := 0, resetDone := true }
    nmiPending := false
    irqLine := false
    ext := placeBytes pc (w % 2 ^ nbits) ext
    calls := if (nextCall s).map Prod.fst = some .cpuClock then s.calls else .cpuClock :: s.calls }

end Sys2Proof.Machine
end

