-- ==== Sys2Proof/Machine/Step.lean ====
section
/-! DEFINITION. One step of the machine, and the placing of an instruction for it. -/

namespace Sys2Proof.Machine

/-- One step: the next call of the host's schedule (R7, R257). -/
def step (s : State) : Host.Outcome State Fault Refusal := stepCall s

/-- `s` with the instruction whose bits are `w` stored where `step` fetches next (log 11). -/
def State.withFetchWord (s : State) (nbits w : Nat) : State := placeInstr s nbits w

end Sys2Proof.Machine
end

