-- ==== Sys2Proof/Safety.lean ====
section
/-! DEFINITION. The terms claims use: when no bus access can stop, what a bus read leaves alone, what a store changes, and
the invariant of the machine. -/

namespace Sys2Proof.Machine

/-- No access of the processor bus can stop: the PPU was reset, and a STATUS read is not refused (R187, R235, R240). -/
abbrev BusReady (s : State) : Prop :=
  s.ppu.resetDone = true ∧ ¬(s.params.spriteStatus = .refuse ∧ s.ppu.mask.getLsbD 4 = true)

/-- An address whose read answers the byte the model holds there: outside the PPU window and of a RAM or ROM region. -/
abbrev Plain (s : State) (a : Word) : Prop := inWindow a = false ∧ s.ext.kindAt a.toNat ≠ .free

/-- Whether a transfer is an access of the CPU to the PPU window. -/
def IoEvent.inWindow : IoEvent → Bool
  | .cpuRead a _ => Machine.inWindow a
  | .cpuWrite a _ => Machine.inWindow a
  | .ppuRead _ _ => false
  | .ppuWrite _ _ => false
  | .portRead _ _ => false
  | .pixel _ _ _ => false
  | .greyscale _ => false

/-- Whether an event is a transfer on the processor bus (R61). -/
def IoEvent.onCpuBus : IoEvent → Bool
  | .cpuRead _ _ => true
  | .cpuWrite _ _ => true
  | .ppuRead _ _ => false
  | .ppuWrite _ _ => false
  | .portRead _ _ => false
  | .pixel _ _ _ => false
  | .greyscale _ => false

/-- Whether an event is a transfer on the PPU bus (R70). -/
def IoEvent.onPpuBus : IoEvent → Bool
  | .cpuRead _ _ => false
  | .cpuWrite _ _ => false
  | .ppuRead _ _ => true
  | .ppuWrite _ _ => true
  | .portRead _ _ => false
  | .pixel _ _ _ => false
  | .greyscale _ => false

/-- The bus transfers made between two states: the call's list and the history of the buses grow by the same events. -/
abbrev Recorded (s t : State) (events : List IoEvent) : Prop :=
  t.io = s.io ++ events ∧ t.history = events.reverse ++ s.history

/-- What reads of the processor bus leave as it was: every register of the CPU, every byte of both buses, the pending NMI,
the inputs and parameters; and of the PPU all but the five fields a STATUS or DATA read moves, which stay too when no read
was of the window (R68, R193, R201). -/
structure ReadFrame (s t : State) : Prop where
  cpu : t.cpu = s.cpu
  nmiPending : t.nmiPending = s.nmiPending
  irqLine : t.irqLine = s.irqLine
  ext : t.ext = s.ext
  ppuBus : t.ppuBus = s.ppuBus
  params : t.params = s.params
  calls : t.calls = s.calls
  loop : t.loop = s.loop
  ppu : t.ppu = { s.ppu with
    vblank := t.ppu.vblank
    w := t.ppu.w
    v := t.ppu.v
    nmiOutputPrev := t.ppu.nmiOutputPrev
    readBuffer := t.ppu.readBuffer }
  io : ∃ events, Recorded s t events ∧ ((∀ e ∈ events, e.inWindow = false) → t.ppu = s.ppu)

/-- What writing bytes to ExtBus changes of its memory: each byte where it is RAM, and no other byte. -/
structure WritesBytes (s t : State) (writes : List (Word × Byte)) : Prop where
  elsewhere : ∀ a : Nat, (∀ e ∈ writes, e.1.toNat ≠ a) → t.ext.peek a = s.ext.peek a
  stored : ∀ e ∈ writes, s.ext.kindAt e.1.toNat = .ram → t.ext.peek e.1.toNat = e.2
  notRam : ∀ a : Nat, s.ext.kindAt a ≠ .ram → t.ext.peek a = s.ext.peek a
  regions : t.ext.regions = s.ext.regions

/-- What no instruction of the processor touches: the inputs, the parameters and the host's schedule. -/
structure SameHost (s t : State) : Prop where
  irqLine : t.irqLine = s.irqLine
  params : t.params = s.params
  calls : t.calls = s.calls
  loop : t.loop = s.loop

/-- What one write of `d` at `ea` on the processor bus changes outside the CPU (R62): outside the window one byte of ExtBus
and nothing of the PPU; in the window exactly what the PPU's register write does. -/
structure StoreEffect (ea : Word) (d : Byte) (s t : State) : Prop where
  host : SameHost s t
  bytes : WritesBytes s t (if inWindow ea then [] else [(ea, d)])
  outside : inWindow ea = false →
    t.ppu = s.ppu ∧ t.ppuBus = s.ppuBus ∧ t.nmiPending = s.nmiPending ∧ t.draws = s.draws ∧
      Recorded s t [.cpuWrite ea d]
  inside : inWindow ea = true →
    ∃ u, portWrite (ea.toNat % 8) d s = .ok () u ∧ t.ppu = u.ppu ∧ t.ppuBus = u.ppuBus ∧
      t.nmiPending = u.nmiPending ∧ t.draws = u.draws ∧ Recorded u t [.cpuWrite ea d]

/-- What an entry by `vector` that pushes `ret` and break bit `b` does to the machine `s` (R247), with the cost loaded. -/
structure Entered (s t : State) (ret : Word) (b : Bool) (vector : Word) (lo hi : Byte) : Prop where
  cpu : t.cpu = { s.cpu with
    sp := s.cpu.sp - 3
    p := { s.cpu.p with b := b, i := true }
    pc := word16 hi lo
    cycles := 7 }
  bytes : WritesBytes s t
    [(word16 0x01 s.cpu.sp, highByte ret), (word16 0x01 (s.cpu.sp - 1), lowByte ret),
      (word16 0x01 (s.cpu.sp - 2), (s.cpu.p.toByte &&& 0xEF) ||| (if b then 0x10 else 0x00) ||| 0x20)]
  low : s.ext.kindAt vector.toNat ≠ .free → lo = s.ext.peek vector.toNat
  high : s.ext.kindAt (vector + 1).toNat ≠ .free → hi = s.ext.peek (vector + 1).toNat
  io : Recorded s t
    [.cpuWrite (word16 0x01 s.cpu.sp) (highByte ret), .cpuWrite (word16 0x01 (s.cpu.sp - 1)) (lowByte ret),
      .cpuWrite (word16 0x01 (s.cpu.sp - 2)) ((s.cpu.p.toByte &&& 0xEF) ||| (if b then 0x10 else 0x00) ||| 0x20),
      .cpuRead vector lo, .cpuRead (vector + 1) hi]
  host : SameHost s t
  ppu : t.ppu = s.ppu
  ppuBus : t.ppuBus = s.ppuBus
  nmiPending : t.nmiPending = s.nmiPending

/-- The parameters a machine may be given: the starting position lies in the frame (R6, R49). -/
abbrev Params.wf (p : Params) : Prop :=
  -1 ≤ p.ppuResetScanline ∧ p.ppuResetScanline ≤ 260 ∧ p.ppuResetDot ≤ 340

/-- OAM's written bytes are sorted, each index once and in range (R40, log 6). -/
abbrev Oam.wf (o : Oam) : Prop :=
  o.cells.Pairwise (fun c e => c.1 < e.1) ∧ ∀ c ∈ o.cells, c.1 < 256

/-- What holds of the machine between any two calls. -/
structure Inv (s : State) : Prop where
  params : s.params.wf
  ext : Memory.wf 0x10000 s.ext.cells                              -- R60, canonical form
  ppuBus : Memory.wf 0x4000 s.ppuBus.cells                         -- R70, canonical form
  oam : s.ppu.oam.wf                                               -- R40
  countdown : s.cpu.cycles ≤ max 6 s.params.resetCycles            -- R32, R261
  scanline : -1 ≤ s.ppu.scanline ∧ s.ppu.scanline ≤ 260            -- R49
  dot : s.ppu.dot ≤ 340                                            -- R49
  nmiOutput : s.ppu.nmiOutputPrev = (s.ppu.vblank && s.ppu.ctrl.getLsbD 7)   -- R45, R243
  sprites : s.params.spriteStatus ≠ .draw → s.ppu.sprite0Hit = false ∧ s.ppu.spriteOverflow = false   -- R235

end Sys2Proof.Machine
end

