-- ==== Sys2Proof/Certificates/Slice0/Obligations.lean ====
section
/-! DEFINITION. The statements for the provers: what the spec's numbered rules say of the instructions, the addressing
modes, the interrupts, the register port, the rendering machine and the resets. The terms they share come first. -/

namespace Sys2Proof.Stated

open Sys2Proof.Machine

/-! ## Operands and table rows -/

/-- The addressing mode of a memory operand (R88). -/
def memMode : MemOperand → Mode
  | .zeroPage _ => .zeroPage
  | .zeroPageX _ => .zeroPageX
  | .zeroPageY _ => .zeroPageY
  | .absolute _ => .absolute
  | .absoluteX _ => .absoluteX
  | .absoluteY _ => .absoluteY
  | .indexedIndirect _ => .indexedIndirect
  | .indirectIndexed _ => .indirectIndexed

/-- The operand bytes of a memory operand, low byte first (R86, R87). -/
def memBytes : MemOperand → List Byte
  | .zeroPage zz => [zz]
  | .zeroPageX zz => [zz]
  | .zeroPageY zz => [zz]
  | .absolute a => [lowByte a, highByte a]
  | .absoluteX a => [lowByte a, highByte a]
  | .absoluteY a => [lowByte a, highByte a]
  | .indexedIndirect zz => [zz]
  | .indirectIndexed zz => [zz]

/-- The addressing mode of a source. -/
def sourceMode : Source → Mode
  | .immediate _ => .immediate
  | .memory m => memMode m

/-- The operand bytes of a source. -/
def sourceBytes : Source → List Byte
  | .immediate b => [b]
  | .memory m => memBytes m

/-- A row of the table: opcode, addressing mode, base cycles, whether a page crossing costs one more (R34). -/
abbrev Row := Byte × Mode × Nat × Bool

/-- The row of an instruction. -/
def rowOf (i : Instr) : Row := (i.opcode, i.mode, i.baseCycles, i.pageExtra)

/-- The instructions of a kind have exactly these rows: none has another, and each row is some instruction's. -/
def HasRows (kind : Instr → Prop) (rows : List Row) : Prop :=
  (∀ i, kind i → rowOf i ∈ rows) ∧ ∀ r ∈ rows, ∃ i, kind i ∧ rowOf i = r

/-- The rows of the eight forms of an accumulator operation, in the order IMM, ZP0, ZPX, ABS, ABX, ABY, IZX, IZY, with the
cycles 2/3/4/4/4+/4+/6/5+ (R130, R146 to R148, R154 to R156). -/
def eightRows (imm zp0 zpx abs abx aby izx izy : Byte) : List Row :=
  [(imm, .immediate, 2, false), (zp0, .zeroPage, 3, false), (zpx, .zeroPageX, 4, false), (abs, .absolute, 4, false),
    (abx, .absoluteX, 4, true), (aby, .absoluteY, 4, true), (izx, .indexedIndirect, 6, false),
    (izy, .indirectIndexed, 5, true)]

/-- The rows of the four memory forms of a read-modify-write operation, in the order ZP0, ZPX, ABS, ABX, with the cycles
5/6/6/7 (R150 to R153, R159, R160). -/
def fourRows (zp0 zpx abs abx : Byte) : List Row :=
  [(zp0, .zeroPage, 5, false), (zpx, .zeroPageX, 6, false), (abs, .absolute, 6, false), (abx, .absoluteX, 7, false)]

/-! ## What an instruction of each shape does -/

/-- `SetNZ(r)` (R10): Z is whether the result is 0, N is its bit 7, no other flag changes. -/
def withNZ (r : Byte) (p : Flags) : Flags := { p with n := r.msb, z := decide (r = 0) }

/-- The read instructions of operation `op`: their rows, and for every form and every state of a ready bus that the operand
`m` is read, that nothing but reads happens outside the CPU, and that the next state has the CPU `act m` gives with the
row's cost loaded. -/
def Reads (op : ReadOp) (rows : List Row) (act : Byte → Cpu → Cpu) : Prop :=
  HasRows (fun i => ∃ src, i.view = .read op src) rows ∧
  ∀ (i : Instr) (src : Source), i.view = .read op src →
    i.mode = sourceMode src ∧ i.operandBytes = sourceBytes src ∧
    ∀ s : State, BusReady s →
      ∃ m crossed s1, readOperand src s = .ok (m, crossed) s1 ∧ ReadFrame s s1 ∧
        exec i s = .next { s1 with cpu := { act m s.cpu with
          cycles := i.baseCycles + (if i.pageExtra = true ∧ crossed = true then 1 else 0) } }

/-- The store instructions of operation `op`: their rows, and for every form and every state with the PPU reset that the
address is found by reads alone, that the next state's CPU differs in the countdown alone, and that the one byte stored at
that address is the register's. -/
def Stores (op : StoreOp) (rows : List Row) (register : Cpu → Byte) : Prop :=
  HasRows (fun i => ∃ m, i.view = .store op m) rows ∧
  ∀ (i : Instr) (m : MemOperand), i.view = .store op m →
    i.mode = memMode m ∧ i.operandBytes = memBytes m ∧
    ∀ s : State, s.ppu.resetDone = true →
      ∃ ea crossed s1 t, effective m s = .ok (ea, crossed) s1 ∧ ReadFrame s s1 ∧ exec i s = .next t ∧
        t.cpu = { s.cpu with cycles := i.baseCycles } ∧ StoreEffect ea (register s.cpu) s1 t

/-- The memory forms of a read-modify-write operation: one read and one write at the same address. -/
def ModifiesMemory (op : ModifyOp) (rows : List Row) (result : Byte → Flags → Byte) (flags : Byte → Flags → Flags) : Prop :=
  HasRows (fun i => ∃ m, i.view = .modify op (.memory m)) rows ∧
  ∀ (i : Instr) (m : MemOperand), i.view = .modify op (.memory m) →
    i.mode = memMode m ∧ i.operandBytes = memBytes m ∧
    ∀ s : State, BusReady s →
      ∃ ea crossed s1 d s2 t, effective m s = .ok (ea, crossed) s1 ∧ memRead ea s1 = .ok d s2 ∧ ReadFrame s s2 ∧
        exec i s = .next t ∧ t.cpu = { s.cpu with p := flags d s.cpu.p, cycles := i.baseCycles } ∧
        StoreEffect ea (result d s.cpu.p) s2 t

/-- The accumulator form of a shift or rotate. -/
def ModifiesAccumulator (i : Instr) (opcode : Byte) (result : Byte → Flags → Byte) (flags : Byte → Flags → Flags) : Prop :=
  rowOf i = (opcode, .accumulator, 2, false) ∧ i.operandBytes = [] ∧
  ∀ s : State, exec i s = .next { s with cpu := { s.cpu with
    a := result s.cpu.a s.cpu.p
    p := flags s.cpu.a s.cpu.p
    cycles := 2 } }

/-- An implied instruction of two cycles that changes the CPU as `act` says and nothing else. -/
def Implied (i : Instr) (opcode : Byte) (act : Cpu → Cpu) : Prop :=
  rowOf i = (opcode, .implied, 2, false) ∧ i.operandBytes = [] ∧
  ∀ s : State, exec i s = .next { s with cpu := { act s.cpu with cycles := 2 } }

/-- A conditional branch: PC becomes the target or stays at the next instruction; 2 cycles not taken, 3 taken to the page of
the next instruction, 4 taken to another page; nothing else changes. -/
def Branch (build : Byte → Instr) (opcode : Byte) (cond : Flags → Bool) : Prop :=
  ∀ (rr : Byte) (s : State), rowOf (build rr) = (opcode, .relative, 2, false) ∧ (build rr).operandBytes = [rr] ∧
    let target : Word := BitVec.ofInt 16 (s.cpu.pc.toNat + rr.toInt)
    exec (build rr) s = .next { s with cpu := { s.cpu with
      pc := if cond s.cpu.p then target else s.cpu.pc
      cycles := if cond s.cpu.p then (if target.toNat / 256 = s.cpu.pc.toNat / 256 then 3 else 4) else 2 } }

/-- The address of a stack byte, in page 1 (R22). -/
def stackByte (sp : Byte) : Word := word16 0x01 sp

/-- What pushing bytes does outside the CPU: the writes, in this order, to ExtBus and nothing else. -/
structure Pushed (s t : State) (writes : List (Word × Byte)) : Prop where
  bytes : WritesBytes s t writes
  recorded : Recorded s t (writes.map fun e => IoEvent.cpuWrite e.1 e.2)
  host : SameHost s t
  ppu : t.ppu = s.ppu
  ppuBus : t.ppuBus = s.ppuBus
  nmiPending : t.nmiPending = s.nmiPending
  draws : t.draws = s.draws

/-! ## Fetch and countdown -/

/-- The `n` bytes ExtBus holds from PC on. -/
def codeBytes (s : State) (n : Nat) : List Byte :=
  (List.range n).map fun k => s.ext.peek (s.cpu.pc + BitVec.ofNat 16 k).toNat

/-- The transfers that read them. -/
def codeReads (s : State) (n : Nat) : List IoEvent :=
  (List.range n).map fun k =>
    IoEvent.cpuRead (s.cpu.pc + BitVec.ofNat 16 k) (s.ext.peek (s.cpu.pc + BitVec.ofNat 16 k).toNat)

/-- `n` CPU `clock()` calls with no other call between them. -/
def clocks : Nat → State → Host.Outcome State Fault Refusal
  | 0, s => .next s
  | n + 1, s =>
    match cpuClock s with
    | .next t => clocks n t
    | .fault f => .fault f
    | .refused r => .refused r

/-- `n` PPU `clock()` calls with no other call between them. -/
def dots : Nat → State → Host.Outcome State Fault Refusal
  | 0, s => .next s
  | n + 1, s =>
    match runCall .ppuClock s with
    | .next t => dots n t
    | .fault f => .fault f
    | .refused r => .refused r

/-- The begin call finds no interrupt to take (R245, R249). -/
abbrev NoInterrupt (s : State) : Prop := s.nmiPending = false ∧ ¬(s.irqLine = true ∧ s.cpu.p.i = false)

/-! ## The fields of a VRAM address (R42) -/

def coarseX (v : BitVec 15) : BitVec 5 := v.extractLsb' 0 5
def coarseY (v : BitVec 15) : BitVec 5 := v.extractLsb' 5 5
def nametable (v : BitVec 15) : BitVec 2 := v.extractLsb' 10 2
def fineY (v : BitVec 15) : BitVec 3 := v.extractLsb' 12 3

/-- The VRAM address with these fields. -/
def vramAddress (fy : BitVec 3) (nt : BitVec 2) (cy cx : BitVec 5) : BitVec 15 := fy ++ nt ++ cy ++ cx

/-- `IncrementX` by fields: coarse X wraps from 31 to 0 and then flips the horizontal nametable bit (R214). -/
def stepX (v : BitVec 15) : BitVec 15 :=
  if coarseX v = 31 then vramAddress (fineY v) (nametable v ^^^ 1) (coarseY v) 0
  else vramAddress (fineY v) (nametable v) (coarseY v) (coarseX v + 1)

/-- `IncrementY` by fields: fine Y first; after 7, coarse Y: 29 goes to 0 and flips the vertical nametable bit, 31 goes to 0
and flips nothing, any other value goes up by 1 (R215). -/
def stepY (v : BitVec 15) : BitVec 15 :=
  if fineY v ≠ 7 then vramAddress (fineY v + 1) (nametable v) (coarseY v) (coarseX v)
  else if coarseY v = 29 then vramAddress 0 (nametable v ^^^ 2) 0 (coarseX v)
  else if coarseY v = 31 then vramAddress 0 (nametable v) 0 (coarseX v)
  else vramAddress 0 (nametable v) (coarseY v + 1) (coarseX v)

/-- The horizontal copy by fields: coarse X and the horizontal nametable bit come from `t` (R216). -/
def copyX (v t : BitVec 15) : BitVec 15 :=
  vramAddress (fineY v) ((nametable v).extractLsb' 1 1 ++ (nametable t).extractLsb' 0 1) (coarseY v) (coarseX t)

/-- The vertical copy by fields: fine Y, coarse Y and the vertical nametable bit come from `t` (R217). -/
def copyY (v t : BitVec 15) : BitVec 15 :=
  vramAddress (fineY t) ((nametable t).extractLsb' 1 1 ++ (nametable v).extractLsb' 0 1) (coarseY t) (coarseX v)

/-! ## The rendering schedule -/

/-- Rendering happens at the position held: a pre-render or visible line with MASK bit 3 or 4 set (R210, R213). -/
abbrev Rendering (s : State) : Prop :=
  -1 ≤ s.ppu.scanline ∧ s.ppu.scanline ≤ 239 ∧ (s.ppu.mask.getLsbD 3 = true ∨ s.ppu.mask.getLsbD 4 = true)

/-- The dots of the fetch groups (R224). -/
abbrev FetchDot (d : Nat) : Prop := (1 ≤ d ∧ d ≤ 256) ∨ (321 ≤ d ∧ d ≤ 336)

/-- The value `v` has after the dot at the position held: IncrementX, IncrementY, horizontal copy, vertical copy, each at
its dots and in this order (R224, R227). -/
def nextV (s : State) : BitVec 15 :=
  let d := s.ppu.dot
  let v1 := if FetchDot d ∧ d % 8 = 0 then stepX s.ppu.v else s.ppu.v
  let v2 := if d = 256 then stepY v1 else v1
  let v3 := if d = s.params.hcopyDot then copyX v2 s.ppu.t else v2
  if s.ppu.scanline = -1 ∧ 280 ≤ d ∧ d ≤ 304 then copyY v3 s.ppu.t else v3

/-- The address a dot reads on the PPU bus, if it reads one: nametable, attribute, pattern low, pattern high at the dots 1,
3, 5 and 7 of each group of eight, and the two trailing nametable reads (R219, R224). -/
def dotAddress (s : State) : Option (BitVec 14) :=
  let d := s.ppu.dot
  if FetchDot d then
    if d % 8 = 1 then some (nametableAddress s.ppu.v)
    else if d % 8 = 3 then some (attributeAddress s.ppu.v)
    else if d % 8 = 5 then some (patternAddress s.ppu)
    else if d % 8 = 7 then some (patternAddress s.ppu + 8)
    else none
  else if d = 337 ∨ d = 339 then some (nametableAddress (nextV s)) else none

/-- The shift registers after the dot at the position held, plane by plane (R224 to R226): shifted at dots 2..257 and
322..337, then the low byte reloaded at dots 9, 17, ..., 257, 329 and 337. -/
def nextShifter (d : Nat) (old : BitVec 16) (latch : Byte) : BitVec 16 :=
  let shifted := if (2 ≤ d ∧ d ≤ 257) ∨ (322 ≤ d ∧ d ≤ 337) then old.extractLsb' 0 15 ++ 0#1 else old
  if (9 ≤ d ∧ d ≤ 257 ∧ d % 8 = 1) ∨ d = 329 ∨ d = 337 then shifted.extractLsb' 8 8 ++ latch else shifted

/-- A latched attribute bit spread over the eight pixels of a tile (R226). -/
def spread (b : Bool) : Byte := if b then 0xFF else 0x00

/-- The number of a position in the frame, from (-1, 0) on (R212). -/
def positionNumber (p : Ppu) : Int := (p.scanline + 1) * 341 + p.dot

/-- The part of the picture core no register call touches (R207). -/
structure PipelineKept (p q : Ppu) : Prop where
  scanline : q.scanline = p.scanline
  dot : q.dot = p.dot
  resetDone : q.resetDone = p.resetDone
  sprite0Hit : q.sprite0Hit = p.sprite0Hit
  spriteOverflow : q.spriteOverflow = p.spriteOverflow
  nt : q.bgNextNt = p.bgNextNt
  attr : q.bgNextAt = p.bgNextAt
  lo : q.bgNextLo = p.bgNextLo
  hi : q.bgNextHi = p.bgNextHi
  ptLo : q.shPtLo = p.shPtLo
  ptHi : q.shPtHi = p.shPtHi
  atLo : q.shAtLo = p.shAtLo
  atHi : q.shAtHi = p.shAtHi

/-- What every call on the picture core leaves alone: the CPU, ExtBus, the parameters and the schedule (R7, R237). -/
structure CpuSideKept (s t : State) : Prop where
  cpu : t.cpu = s.cpu
  ext : t.ext = s.ext
  params : t.params = s.params
  calls : t.calls = s.calls
  loop : t.loop = s.loop

/-- The NMI condition of a picture core (R243). -/
def nmiCondition (p : Ppu) : Bool := p.vblank && p.ctrl.getLsbD 7

/-- Whether a transfer is a CTRL write with NMI-enable set (R189, R243). -/
def enablesNmi : IoEvent → Prop
  | .cpuWrite a d => inWindow a = true ∧ a.toNat % 8 = 0 ∧ d.getLsbD 7 = true
  | .cpuRead _ _ => False
  | .ppuRead _ _ => False
  | .ppuWrite _ _ => False
  | .portRead _ _ => False
  | .pixel _ _ _ => False
  | .greyscale _ => False

end Sys2Proof.Stated

section

open Sys2Proof Sys2Proof.Machine Sys2Proof.Stated

/-! ## Encoding -/

/-- R97: the spec's seven encoding examples, with the byte strings as it writes them. -/
def Obligations.SpecEncodingExamplesDecode : Prop :=
  decode [0xA9, 0x10] = .ok (.ldaImm 0x10, []) ∧
  decode [0x9D, 0x00, 0x02] = .ok (.staAbx 0x0200, []) ∧
  decode [0xB1, 0x20] = .ok (.ldaIzy 0x20, []) ∧
  decode [0x6C, 0xFF, 0x02] = .ok (.jmpInd 0x02FF, []) ∧
  decode [0xD0, 0xFB] = .ok (.bne 0xFB, []) ∧
  decode [0x0A] = .ok (.aslAcc, []) ∧
  decode [0x20, 0x00, 0x80] = .ok (.jsr 0x8000, [])

/-- R85 to R87, R91: decoding the encoding of any instruction, whatever follows it, gives the instruction back with every
operand bit and leaves what follows. -/
def Obligations.DecodeOfEncodeIsIdentity : Prop :=
  ∀ (i : Instr) (rest : List Byte), decode (encode i ++ rest) = .ok (i, rest)

/-- R85, R91: what the decoder accepts is an encoding: the bytes it took are the encoding of the instruction it gives. -/
def Obligations.DecodeAcceptsOnlyEncodings : Prop :=
  ∀ (bytes rest : List Byte) (i : Instr), decode bytes = .ok (i, rest) → bytes = encode i ++ rest

/-- R86, R88, R89, R93: every opcode value is either one of the 105 undefined ones, which no instruction has and the decoder
rejects by name, or the opcode of instructions of one mode; and the length follows from the opcode alone. -/
def Obligations.OpcodeMapIsComplete : Prop :=
  (∀ op : Byte, op ∈ undefinedOpcodes ↔ ∀ i : Instr, i.opcode ≠ op) ∧
  (∀ (op : Byte) (rest : List Byte), op ∈ undefinedOpcodes → decode (op :: rest) = .error (.undefinedOpcode op)) ∧
  undefinedOpcodes.Nodup ∧ undefinedOpcodes.length = 105 ∧
  (∀ i j : Instr, i.opcode = j.opcode → rowOf i = rowOf j) ∧
  ∀ i : Instr, opcodeLength i.opcode = some (encode i).length ∧ wellFormedBytes (encode i) = true ∧
    (encode i).length = match i.mode with
      | .implied => 1
      | .accumulator => 1
      | .immediate => 2
      | .zeroPage => 2
      | .zeroPageX => 2
      | .zeroPageY => 2
      | .absolute => 3
      | .absoluteX => 3
      | .absoluteY => 3
      | .indirect => 3
      | .indexedIndirect => 2
      | .indirectIndexed => 2
      | .relative => 2

/-! ## The engine -/

/-- R101, R102: where the host's next call is the CPU's, the bytes at PC decode to an instruction and no interrupt is
taken, the step is `exec` of that instruction at the state with PC moved past its bytes and their reads recorded, with the
countdown then reduced by one. -/
def Obligations.StepRunsTheDecodedInstruction : Prop :=
  ∀ (s : State) (rest : List HostCall) (i : Instr) (n : Nat),
    nextCall s = some (.cpuClock, rest) → s.cpu.resetDone = true → s.cpu.cycles = 0 → NoInterrupt s →
    (∀ k < n, Plain s (s.cpu.pc + BitVec.ofNat 16 k)) → decode (codeBytes s n) = .ok (i, []) →
    step s = tick (exec i { s with
      calls := rest
      io := codeReads s n
      history := (codeReads s n).reverse ++ s.history
      cpu := { s.cpu with pc := s.cpu.pc + BitVec.ofNat 16 n } })

/-- R53, R245, R257, R275: a step makes the host's next call and no other: the first of `calls`, or the first of `loop` when
`calls` is empty; an inspection and an idle host change nothing but the schedule and the list of transfers (D39), and the
host's move of IRQ_LINE changes that input alone (log 2, log 14: the schedule is the model's choice). -/
def Obligations.StepMakesTheNextCall : Prop :=
  (∀ (s : State) (c : HostCall) (rest : List HostCall), s.calls = c :: rest →
    step s = runCall c { s with calls := rest, io := [] }) ∧
  (∀ (s : State) (c : HostCall) (rest : List HostCall), s.calls = [] → s.loop = c :: rest →
    step s = runCall c { s with calls := rest, io := [] }) ∧
  (∀ s : State, s.calls = [] → s.loop = [] → step s = .next { s with io := [] }) ∧
  (∀ s : State, runCall .inspect s = .next s) ∧
  ∀ (level : Bool) (s : State), runCall (.setIrq level) s = .next { s with irqLine := level }

/-- R105: a call entered during the countdown reduces it by one and changes nothing else: no transfer, no interrupt, even
with an NMI pending. -/
def Obligations.CountdownCallOnlyDecrements : Prop :=
  ∀ s : State, s.cpu.resetDone = true → 0 < s.cpu.cycles →
    cpuClock s = .next { s with cpu := { s.cpu with cycles := s.cpu.cycles - 1 } }

/-- R102, R32, R101, R110 (D41: the begin call loads N and then decrements; D7, D9 for the interrupt): the begin call runs one
instruction, or takes one interrupt entry of cost 7, and leaves the countdown one below the cost N loaded, in 1..6; the
N - 1 calls that follow only count it down to 0, so what cost N occupied N calls. -/
def Obligations.BeginCallOccupiesItsCost : Prop :=
  ∀ s t : State, s.cpu.cycles = 0 → cpuClock s = .next t →
    (¬NoInterrupt s → t.cpu.cycles + 1 = 7) ∧
    (NoInterrupt s → ∃ i s1 u, fetchInstr s = .ok i s1 ∧ exec i s1 = .next u ∧ t.cpu.cycles + 1 = u.cpu.cycles) ∧
    1 ≤ t.cpu.cycles ∧ t.cpu.cycles ≤ 6 ∧
    ∀ k : Nat, k ≤ t.cpu.cycles → clocks k t = .next { t with cpu := { t.cpu with cycles := t.cpu.cycles - k } }

/-- R103, R104, R108 (D16): the countdown an instruction loads is its base cost of 2..7, plus one at most for a page
crossing where its row says so, plus one or two for a taken branch; 7 at most. -/
def Obligations.InstructionCostBounds : Prop :=
  ∀ (i : Instr) (s t : State), exec i s = .next t →
    2 ≤ i.baseCycles ∧ i.baseCycles ≤ t.cpu.cycles ∧ t.cpu.cycles ≤ 7 ∧
    (i.pageExtra = true → t.cpu.cycles ≤ i.baseCycles + 1) ∧
    (i.mode = .relative → t.cpu.cycles ≤ i.baseCycles + 2) ∧
    (i.pageExtra = false → i.mode ≠ .relative → t.cpu.cycles = i.baseCycles)

/-- R111: a CPU call makes at most six transfers on the processor bus. -/
def Obligations.CpuCallMakesAtMostSixTransfers : Prop :=
  ∀ s t : State, cpuClock s = .next t →
    ∃ events, t.io = s.io ++ events ∧ (events.filter IoEvent.onCpuBus).length ≤ 6

/-- R241: no instruction traps on an operand value, an address or a flag: on a ready bus every one of the 151 instructions
answers a next state, whatever its operands and whatever the registers and memory hold. -/
def Obligations.EveryInstructionCompletes : Prop :=
  ∀ (i : Instr) (s : State), BusReady s → ∃ t, exec i s = .next t

/-- R93, R100, R112, R240 (D1): a CPU never reset faults by name; on a ready bus a reset CPU's call answers a next state, but
for a begin call with no interrupt to take whose opcode read answers one of the 105 undefined values, which is refused with
the opcode and its address. -/
def Obligations.CpuClockOutcomes : Prop :=
  (∀ s : State, s.cpu.resetDone = false → cpuClock s = .fault (.notReset .cpu)) ∧
  ∀ s : State, s.cpu.resetDone = true → BusReady s →
    (s.cpu.cycles = 0 ∧ NoInterrupt s ∧ ∃ op s1, memRead s.cpu.pc s = .ok op s1 ∧ op ∈ undefinedOpcodes ∧
      cpuClock s = .refused (.undefinedOpcode op s.cpu.pc)) ∨
    ((s.cpu.cycles = 0 → NoInterrupt s → ∃ op s1, memRead s.cpu.pc s = .ok op s1 ∧ op ∉ undefinedOpcodes) ∧
      ∃ t, cpuClock s = .next t)

/-! ## The processor bus -/

/-- R62, R187, R235, R240 (D11): an access of the processor bus stops in no case but these: any access to the window before
the PPU is reset, and a read of STATUS there while `SPRITE_STATUS` is Refuse and sprites are shown. -/
def Obligations.ProcessorBusStops : Prop :=
  ∀ (a : Word) (s : State),
    (inWindow a = true → s.ppu.resetDone = false →
      memRead a s = .fault (.notReset .ppu) ∧ ∀ d, memWrite a d s = .fault (.notReset .ppu)) ∧
    (inWindow a = true → s.ppu.resetDone = true → a.toNat % 8 = 2 → s.params.spriteStatus = .refuse →
      s.ppu.mask.getLsbD 4 = true → memRead a s = .refused .unsupportedSpriteStatus) ∧
    (¬(inWindow a = true ∧ s.ppu.resetDone = false) →
      (¬(inWindow a = true ∧ a.toNat % 8 = 2 ∧ s.params.spriteStatus = .refuse ∧ s.ppu.mask.getLsbD 4 = true) →
        ∃ d t, memRead a s = .ok d t) ∧
      ∀ d, ∃ t, memWrite a d s = .ok () t)

/-- R62, R63: outside the window, where a run assumes ExtBus to be RAM, the premise R63 names, a read returns the last byte
written there and a write changes no other address. That an address assumed to be ROM answers the byte placed there and
ignores writes, and that premises are kept by region, is the model's choice (log 3): no rule of the spec speaks of ROM. -/
def Obligations.RamReadsBackWhatWasWritten : Prop :=
  ∀ (a b : Word) (d : Byte) (s : State), inWindow a = false → Plain s b →
    ∃ t, memWrite a d s = .ok () t ∧
      memRead b t = .ok (if b = a ∧ s.ext.kindAt a.toNat = .ram then d else s.ext.peek b.toNat)
        (t.record (.cpuRead b (if b = a ∧ s.ext.kindAt a.toNat = .ram then d else s.ext.peek b.toNat))) ∧
      t.cpu = s.cpu ∧ t.ppu = s.ppu ∧ t.ppuBus = s.ppuBus

/-- R68, R188, R193, R195, R201: what a read of the processor bus that answers changes inside the block: the CPU never; the
PPU not at all outside the window and at every index but 2 and 7; at index 2 the vblank bit, the latch and the edge memory;
at index 7 `v` and the read buffer. R68 lets ExtBus have side effects on reads: they reach the model through the history,
which every read joins. That the bytes assumed of either bus stay, and that a read of an address assumed to be RAM or ROM
answers the byte held there, is the model's choice of premise (log 3). -/
def Obligations.ReadsChangeOnlyTheirSideEffects : Prop :=
  ∀ (a : Word) (s t : State) (d : Byte), memRead a s = .ok d t →
    ReadFrame s t ∧
    (∃ events, Recorded s t (events ++ [.cpuRead a d]) ∧ ∀ e ∈ events, e.onPpuBus = true) ∧
    (Plain s a → d = s.ext.peek a.toNat ∧ t = s.record (.cpuRead a d)) ∧
    (¬(inWindow a = true ∧ (a.toNat % 8 = 2 ∨ a.toNat % 8 = 7)) → t.ppu = s.ppu) ∧
    (inWindow a = true → a.toNat % 8 = 2 →
      t.ppu = { s.ppu with vblank := false, w := false, nmiOutputPrev := false }) ∧
    (inWindow a = true → a.toNat % 8 = 7 →
      ∃ buffer, t.ppu = { s.ppu with
        v := s.ppu.v + (if s.ppu.ctrl.getLsbD 2 then 32 else 1), readBuffer := buffer })

/-! ## Addressing modes -/

/-- R119 to R124, R118: the modes that find their address without a read. Zero-page sums wrap in page 0 and never report a
crossing; absolute sums wrap modulo 2^16 and report whether bits 15..8 changed; the operand is then the one byte there, or
the second byte itself for immediate. -/
def Obligations.DirectModes : Prop :=
  ∀ (s : State) (zz : Byte) (a : Word),
    effective (.zeroPage zz) s = .ok (BitVec.ofNat 16 zz.toNat, false) s ∧
    effective (.zeroPageX zz) s = .ok (BitVec.ofNat 16 ((zz.toNat + s.cpu.x.toNat) % 256), false) s ∧
    effective (.zeroPageY zz) s = .ok (BitVec.ofNat 16 ((zz.toNat + s.cpu.y.toNat) % 256), false) s ∧
    effective (.absolute a) s = .ok (a, false) s ∧
    effective (.absoluteX a) s = .ok (BitVec.ofNat 16 (a.toNat + s.cpu.x.toNat),
      decide ((a.toNat + s.cpu.x.toNat) % 65536 / 256 ≠ a.toNat / 256)) s ∧
    effective (.absoluteY a) s = .ok (BitVec.ofNat 16 (a.toNat + s.cpu.y.toNat),
      decide ((a.toNat + s.cpu.y.toNat) % 65536 / 256 ≠ a.toNat / 256)) s ∧
    readOperand (.immediate zz) s = .ok (zz, false) s ∧
    ∀ (m : MemOperand) (ea : Word) (crossed : Bool) (s1 s2 : State) (d : Byte),
      effective m s = .ok (ea, crossed) s1 → memRead ea s1 = .ok d s2 →
        readOperand (.memory m) s = .ok (d, crossed) s2

/-- R126, R127: the modes that read a pointer in page 0, on a page 0 that holds plain memory. Both pointer bytes come from
page 0, the second one wrapping there; (zp,X) adds X before and reports no crossing, (zp),Y adds Y after, modulo 2^16, and
reports whether bits 15..8 changed. -/
def Obligations.PointerModes : Prop :=
  ∀ (s : State) (zz : Byte), (∀ p : Byte, s.ext.kindAt p.toNat ≠ .free) →
    (∃ s1, ReadFrame s s1 ∧ s1.ppu = s.ppu ∧ effective (.indexedIndirect zz) s =
      .ok (word16 (s.ext.peek ((zz.toNat + s.cpu.x.toNat + 1) % 256)) (s.ext.peek ((zz.toNat + s.cpu.x.toNat) % 256)), false)
        s1) ∧
    ∃ s1, ReadFrame s s1 ∧ s1.ppu = s.ppu ∧
      let base := word16 (s.ext.peek ((zz.toNat + 1) % 256)) (s.ext.peek zz.toNat)
      effective (.indirectIndexed zz) s =
        .ok (BitVec.ofNat 16 (base.toNat + s.cpu.y.toNat),
          decide ((base.toNat + s.cpu.y.toNat) % 65536 / 256 ≠ base.toNat / 256)) s1

/-! ## Loads, stores and transfers -/

/-- R130 to R132: LDA (8 forms), LDX (5 forms), LDY (5 forms): the register takes the operand, Z and N follow it, no other
flag or register changes. -/
def Obligations.LoadInstructions : Prop :=
  Reads .lda (eightRows 0xA9 0xA5 0xB5 0xAD 0xBD 0xB9 0xA1 0xB1) (fun m c => { c with a := m, p := withNZ m c.p }) ∧
  Reads .ldx [(0xA2, .immediate, 2, false), (0xA6, .zeroPage, 3, false), (0xB6, .zeroPageY, 4, false),
    (0xAE, .absolute, 4, false), (0xBE, .absoluteY, 4, true)] (fun m c => { c with x := m, p := withNZ m c.p }) ∧
  Reads .ldy [(0xA0, .immediate, 2, false), (0xA4, .zeroPage, 3, false), (0xB4, .zeroPageX, 4, false),
    (0xAC, .absolute, 4, false), (0xBC, .absoluteX, 4, true)] (fun m c => { c with y := m, p := withNZ m c.p })

/-- R133 to R135: STA (7 forms), STX (3 forms), STY (3 forms): one write of the register at the address, no read of it, no
flag changed, no page-crossing cycle. -/
def Obligations.StoreInstructions : Prop :=
  Stores .sta [(0x85, .zeroPage, 3, false), (0x95, .zeroPageX, 4, false), (0x8D, .absolute, 4, false),
    (0x9D, .absoluteX, 5, false), (0x99, .absoluteY, 5, false), (0x81, .indexedIndirect, 6, false),
    (0x91, .indirectIndexed, 6, false)] (fun c => c.a) ∧
  Stores .stx [(0x86, .zeroPage, 3, false), (0x96, .zeroPageY, 4, false), (0x8E, .absolute, 4, false)] (fun c => c.x) ∧
  Stores .sty [(0x84, .zeroPage, 3, false), (0x94, .zeroPageX, 4, false), (0x8C, .absolute, 4, false)] (fun c => c.y)

/-- R136 to R141: TAX, TAY, TXA, TYA, TSX set Z and N from the value moved; TXS sets no flag. -/
def Obligations.TransferInstructions : Prop :=
  Implied .tax 0xAA (fun c => { c with x := c.a, p := withNZ c.a c.p }) ∧
  Implied .tay 0xA8 (fun c => { c with y := c.a, p := withNZ c.a c.p }) ∧
  Implied .txa 0x8A (fun c => { c with a := c.x, p := withNZ c.x c.p }) ∧
  Implied .tya 0x98 (fun c => { c with a := c.y, p := withNZ c.y c.p }) ∧
  Implied .tsx 0xBA (fun c => { c with x := c.sp, p := withNZ c.sp c.p }) ∧
  Implied .txs 0x9A (fun c => { c with sp := c.x })

/-! ## The stack -/

/-- R142, R144: PHA writes A at the stack byte and moves SP down; PLA moves SP up, reads the byte there into A and sets Z and
N from it. -/
def Obligations.AccumulatorPushAndPull : Prop :=
  (rowOf .pha = (0x48, .implied, 3, false) ∧ ∀ s : State, ∃ t, exec .pha s = .next t ∧
    t.cpu = { s.cpu with sp := s.cpu.sp - 1, cycles := 3 } ∧ Pushed s t [(stackByte s.cpu.sp, s.cpu.a)]) ∧
  (rowOf .pla = (0x68, .implied, 4, false) ∧ ∀ s : State, ∃ r s1, memRead (stackByte (s.cpu.sp + 1)) s = .ok r s1 ∧
    ReadFrame s s1 ∧ s1.ppu = s.ppu ∧ exec .pla s = .next { s1 with cpu := { s.cpu with
      sp := s.cpu.sp + 1, a := r, p := withNZ r s.cpu.p, cycles := 4 } })

/-- R143, R145, R29 (D4: a push writes bit 4 itself, a pull discards it and clears stored B): PHP pushes the six flags with
bits 4 and 5 set and keeps P; PLP takes N, V, D, I, Z, C from the byte pulled. -/
def Obligations.StatusPushAndPull : Prop :=
  (rowOf .php = (0x08, .implied, 3, false) ∧ ∀ s : State, ∃ (d : Byte) (t : State), exec .php s = .next t ∧
    t.cpu = { s.cpu with sp := s.cpu.sp - 1, cycles := 3 } ∧ Pushed s t [(stackByte s.cpu.sp, d)] ∧
    d.getLsbD 7 = s.cpu.p.n ∧ d.getLsbD 6 = s.cpu.p.v ∧ d.getLsbD 5 = true ∧ d.getLsbD 4 = true ∧
    d.getLsbD 3 = s.cpu.p.d ∧ d.getLsbD 2 = s.cpu.p.i ∧ d.getLsbD 1 = s.cpu.p.z ∧ d.getLsbD 0 = s.cpu.p.c) ∧
  (rowOf .plp = (0x28, .implied, 4, false) ∧ ∀ s : State, ∃ r s1, memRead (stackByte (s.cpu.sp + 1)) s = .ok r s1 ∧
    ReadFrame s s1 ∧ s1.ppu = s.ppu ∧ exec .plp s = .next { s1 with cpu := { s.cpu with
      sp := s.cpu.sp + 1
      p := { n := r.getLsbD 7, v := r.getLsbD 6, b := false, d := r.getLsbD 3, i := r.getLsbD 2, z := r.getLsbD 1,
             c := r.getLsbD 0 }
      cycles := 4 } })

/-- R144, R145, R175, R252 (D4 for B): on stack bytes that are RAM, PHA then PLA restores A, PHP then PLP restores P but for
B, JSR then RTS returns to the instruction after the JSR, and BRK then RTI restores P but for B and returns past the
padding byte; SP is unchanged in each case. -/
def Obligations.StackRoundTrips : Prop :=
  ∀ s : State, (∀ k : Nat, k < 3 → s.ext.kindAt (stackByte (s.cpu.sp - BitVec.ofNat 8 k)).toNat = .ram) →
    (∃ t u, exec .pha s = .next t ∧ exec .pla t = .next u ∧
      u.cpu = { s.cpu with p := withNZ s.cpu.a s.cpu.p, cycles := 4 }) ∧
    (∃ t u, exec .php s = .next t ∧ exec .plp t = .next u ∧
      u.cpu = { s.cpu with p := { s.cpu.p with b := false }, cycles := 4 }) ∧
    (∀ a : Word, ∃ t u, exec (.jsr a) s = .next t ∧ exec .rts t = .next u ∧ u.cpu = { s.cpu with cycles := 6 }) ∧
    ∃ t u, exec .brk s = .next t ∧ exec .rti t = .next u ∧
      u.cpu = { s.cpu with p := { s.cpu.p with b := false }, pc := s.cpu.pc + 1, cycles := 6 }

/-! ## Logic and shifts -/

/-- R146 to R149 (90_conflicts C7: BIT writes V): AND, ORA, EOR (8 forms each) and BIT (2 forms), whose N and V are bits 7
and 6 of the operand and which writes no register. -/
def Obligations.LogicInstructions : Prop :=
  Reads .and (eightRows 0x29 0x25 0x35 0x2D 0x3D 0x39 0x21 0x31)
    (fun m c => { c with a := c.a &&& m, p := withNZ (c.a &&& m) c.p }) ∧
  Reads .ora (eightRows 0x09 0x05 0x15 0x0D 0x1D 0x19 0x01 0x11)
    (fun m c => { c with a := c.a ||| m, p := withNZ (c.a ||| m) c.p }) ∧
  Reads .eor (eightRows 0x49 0x45 0x55 0x4D 0x5D 0x59 0x41 0x51)
    (fun m c => { c with a := c.a ^^^ m, p := withNZ (c.a ^^^ m) c.p }) ∧
  Reads .bit [(0x24, .zeroPage, 3, false), (0x2C, .absolute, 4, false)]
    (fun m c => { c with p := { c.p with z := decide (c.a &&& m = 0), n := m.getLsbD 7, v := m.getLsbD 6 } })

/-- R150 to R153: ASL, LSR, ROL, ROR (4 memory forms and the accumulator form each), by the numbers the bytes stand for: the
bit shifted out goes to C, the old C comes in for the rotates, Z and N follow the result, V, D, I and B stay. -/
def Obligations.ShiftInstructions : Prop :=
  let asl (m : Byte) (_ : Flags) : Byte := BitVec.ofNat 8 (2 * m.toNat)
  let lsr (m : Byte) (_ : Flags) : Byte := BitVec.ofNat 8 (m.toNat / 2)
  let rol (m : Byte) (p : Flags) : Byte := BitVec.ofNat 8 (2 * m.toNat + p.c.toNat)
  let ror (m : Byte) (p : Flags) : Byte := BitVec.ofNat 8 (m.toNat / 2 + 128 * p.c.toNat)
  let flags (result : Byte → Flags → Byte) (bit : Nat) (m : Byte) (p : Flags) : Flags :=
    withNZ (result m p) { p with c := m.getLsbD bit }
  (ModifiesMemory .asl (fourRows 0x06 0x16 0x0E 0x1E) asl (flags asl 7) ∧ ModifiesAccumulator .aslAcc 0x0A asl (flags asl 7)) ∧
  (ModifiesMemory .lsr (fourRows 0x46 0x56 0x4E 0x5E) lsr (flags lsr 0) ∧ ModifiesAccumulator .lsrAcc 0x4A lsr (flags lsr 0)) ∧
  (ModifiesMemory .rol (fourRows 0x26 0x36 0x2E 0x3E) rol (flags rol 7) ∧ ModifiesAccumulator .rolAcc 0x2A rol (flags rol 7)) ∧
  (ModifiesMemory .ror (fourRows 0x66 0x76 0x6E 0x7E) ror (flags ror 0) ∧ ModifiesAccumulator .rorAcc 0x6A ror (flags ror 0))

/-! ## Arithmetic -/

/-- R154, R155: ADC and SBC (8 forms each). The sum is that of the numbers A, the operand and C stand for; SBC adds the
complemented operand. C is whether the sum exceeds 255, V whether both inputs share a sign and the result's differs, Z and N
follow the result; D is neither read nor written. -/
def Obligations.AddAndSubtractInstructions : Prop :=
  let add (m : Byte) (c : Cpu) : Cpu :=
    let sum := c.a.toNat + m.toNat + c.p.c.toNat
    let r : Byte := BitVec.ofNat 8 sum
    { c with
      a := r
      p := withNZ r { c.p with c := decide (255 < sum), v := decide (c.a.msb = m.msb ∧ r.msb ≠ c.a.msb) } }
  Reads .adc (eightRows 0x69 0x65 0x75 0x6D 0x7D 0x79 0x61 0x71) add ∧
  Reads .sbc (eightRows 0xE9 0xE5 0xF5 0xED 0xFD 0xF9 0xE1 0xF1) (fun m c => add (m ^^^ 0xFF) c)

/-- R113, R154, R155: what the flags of ADC and SBC mean. For ADC, V is whether the exact signed sum leaves -128..127; for
SBC the result is A - M - (1 - C) modulo 256, C is whether no borrow was needed, and V is whether the exact signed
difference leaves -128..127. -/
def Obligations.OverflowAndBorrowMeaning : Prop :=
  ∀ (m : Byte) (s : State),
    (∃ t, exec (.adcImm m) s = .next t ∧
      let exact : Int := s.cpu.a.toInt + m.toInt + s.cpu.p.c.toNat
      (t.cpu.p.v = true ↔ exact < -128 ∨ 127 < exact) ∧ (t.cpu.p.v = false → t.cpu.a.toInt = exact)) ∧
    ∃ t, exec (.sbcImm m) s = .next t ∧
      let borrow : Int := 1 - s.cpu.p.c.toNat
      let exact : Int := s.cpu.a.toInt - m.toInt - borrow
      t.cpu.a = BitVec.ofInt 8 (s.cpu.a.toNat - m.toNat - borrow) ∧
      (t.cpu.p.c = true ↔ m.toNat + borrow ≤ s.cpu.a.toNat) ∧
      (t.cpu.p.v = true ↔ exact < -128 ∨ 127 < exact)

/-- R156 to R158: CMP (8 forms), CPX and CPY (3 forms each): C is the unsigned comparison, Z equality, N bit 7 of the
difference; V and every register stay. -/
def Obligations.CompareInstructions : Prop :=
  let compare (r m : Byte) (p : Flags) : Flags :=
    { p with c := decide (m.toNat ≤ r.toNat), z := decide (r = m), n := (r - m).msb }
  Reads .cmp (eightRows 0xC9 0xC5 0xD5 0xCD 0xDD 0xD9 0xC1 0xD1) (fun m c => { c with p := compare c.a m c.p }) ∧
  Reads .cpx [(0xE0, .immediate, 2, false), (0xE4, .zeroPage, 3, false), (0xEC, .absolute, 4, false)]
    (fun m c => { c with p := compare c.x m c.p }) ∧
  Reads .cpy [(0xC0, .immediate, 2, false), (0xC4, .zeroPage, 3, false), (0xCC, .absolute, 4, false)]
    (fun m c => { c with p := compare c.y m c.p })

/-- R159, R160: INC and DEC (4 memory forms each and no accumulator form), modulo 256; Z and N follow the result, C and V
stay. -/
def Obligations.MemoryIncrementAndDecrement : Prop :=
  ModifiesMemory .inc (fourRows 0xE6 0xF6 0xEE 0xFE) (fun m _ => BitVec.ofNat 8 (m.toNat + 1))
    (fun m p => withNZ (BitVec.ofNat 8 (m.toNat + 1)) p) ∧
  ModifiesMemory .dec (fourRows 0xC6 0xD6 0xCE 0xDE) (fun m _ => BitVec.ofNat 8 (m.toNat + 255))
    (fun m p => withNZ (BitVec.ofNat 8 (m.toNat + 255)) p) ∧
  ∀ i : Instr, i.view ≠ .modify .inc .accumulator ∧ i.view ≠ .modify .dec .accumulator

/-- R161 to R164: INX, INY, DEX, DEY, modulo 256; Z and N follow the result. -/
def Obligations.IndexIncrementAndDecrement : Prop :=
  Implied .inx 0xE8 (fun c => { c with x := c.x + 1, p := withNZ (c.x + 1) c.p }) ∧
  Implied .iny 0xC8 (fun c => { c with y := c.y + 1, p := withNZ (c.y + 1) c.p }) ∧
  Implied .dex 0xCA (fun c => { c with x := c.x - 1, p := withNZ (c.x - 1) c.p }) ∧
  Implied .dey 0x88 (fun c => { c with y := c.y - 1, p := withNZ (c.y - 1) c.p })

/-! ## Control transfer -/

/-- R165 to R172: the eight conditional branches, each on its flag, with the costs 2, 3 and 4. -/
def Obligations.BranchInstructions : Prop :=
  Branch .bpl 0x10 (fun p => !p.n) ∧ Branch .bmi 0x30 (fun p => p.n) ∧ Branch .bvc 0x50 (fun p => !p.v) ∧
  Branch .bvs 0x70 (fun p => p.v) ∧ Branch .bcc 0x90 (fun p => !p.c) ∧ Branch .bcs 0xB0 (fun p => p.c) ∧
  Branch .bne 0xD0 (fun p => !p.z) ∧ Branch .beq 0xF0 (fun p => p.z)

/-- R173, R125 (D17: the page wrap of the pointer): JMP absolute goes to its operand in 3 cycles; JMP indirect goes in 5
cycles to the word read through the pointer, whose high byte comes from the pointer's own page. -/
def Obligations.JumpInstructions : Prop :=
  (∀ (a : Word) (s : State), rowOf (.jmpAbs a) = (0x4C, .absolute, 3, false) ∧
    exec (.jmpAbs a) s = .next { s with cpu := { s.cpu with pc := a, cycles := 3 } }) ∧
  ∀ (a : Word) (s : State), rowOf (.jmpInd a) = (0x6C, .indirect, 5, false) ∧ (BusReady s →
    ∃ lo s1 hi s2, memRead a s = .ok lo s1 ∧
      memRead (BitVec.ofNat 16 (a.toNat / 256 * 256 + (a.toNat + 1) % 256)) s1 = .ok hi s2 ∧ ReadFrame s s2 ∧
      exec (.jmpInd a) s = .next { s2 with cpu := { s.cpu with pc := word16 hi lo, cycles := 5 } })

/-- R174, R175: JSR pushes the address of its last byte, high byte first, and goes to its operand; RTS pulls a word, low byte
first, and goes to the word plus 1. -/
def Obligations.SubroutineInstructions : Prop :=
  (∀ (a : Word) (s : State), rowOf (.jsr a) = (0x20, .absolute, 6, false) ∧ ∃ t, exec (.jsr a) s = .next t ∧
    t.cpu = { s.cpu with sp := s.cpu.sp - 2, pc := a, cycles := 6 } ∧
    Pushed s t [(stackByte s.cpu.sp, highByte (s.cpu.pc - 1)), (stackByte (s.cpu.sp - 1), lowByte (s.cpu.pc - 1))]) ∧
  (rowOf .rts = (0x60, .implied, 6, false) ∧ ∀ s : State, ∃ lo s1 hi s2,
    memRead (stackByte (s.cpu.sp + 1)) s = .ok lo s1 ∧ memRead (stackByte (s.cpu.sp + 2)) s1 = .ok hi s2 ∧
    ReadFrame s s2 ∧ s2.ppu = s.ppu ∧ exec .rts s = .next { s2 with cpu := { s.cpu with
      sp := s.cpu.sp + 2, pc := word16 hi lo + 1, cycles := 6 } })

/-- R176, R247 (D4: stored B becomes 1; D5: I becomes 1 after the push; D6: the pushed address is the BRK's plus 2): BRK
takes the entry through 0xFFFE with the status pushed with bits 4 and 5 set, in 7 cycles, whatever I holds. -/
def Obligations.BreakTakesTheEntry : Prop :=
  rowOf .brk = (0x00, .implied, 7, false) ∧
  ∀ s : State, ∃ lo hi t, exec .brk s = .next t ∧ Entered s t (s.cpu.pc + 1) true 0xFFFE lo hi

/-- R177, R252 (D4: bit 4 of the pulled status is discarded and stored B cleared): RTI pulls the status, then PC low byte
first with no increment, and leaves a pending NMI pending. -/
def Obligations.ReturnFromInterrupt : Prop :=
  rowOf .rti = (0x40, .implied, 6, false) ∧ ∀ s : State, ∃ r s1 lo s2 hi s3,
    memRead (stackByte (s.cpu.sp + 1)) s = .ok r s1 ∧ memRead (stackByte (s.cpu.sp + 2)) s1 = .ok lo s2 ∧
    memRead (stackByte (s.cpu.sp + 3)) s2 = .ok hi s3 ∧ ReadFrame s s3 ∧ s3.ppu = s.ppu ∧
    exec .rti s = .next { s3 with cpu := { s.cpu with
      sp := s.cpu.sp + 3
      p := { n := r.getLsbD 7, v := r.getLsbD 6, b := false, d := r.getLsbD 3, i := r.getLsbD 2, z := r.getLsbD 1,
             c := r.getLsbD 0 }
      pc := word16 hi lo
      cycles := 6 } }

/-- R178 to R185 (D1 for NOP's undocumented kin, D7 for CLI's corner, of which it says nothing): the seven flag
instructions each write the flag they name and nothing else, and NOP writes nothing. -/
def Obligations.FlagInstructionsAndNop : Prop :=
  Implied .clc 0x18 (fun c => { c with p := { c.p with c := false } }) ∧
  Implied .sec 0x38 (fun c => { c with p := { c.p with c := true } }) ∧
  Implied .cli 0x58 (fun c => { c with p := { c.p with i := false } }) ∧
  Implied .sei 0x78 (fun c => { c with p := { c.p with i := true } }) ∧
  Implied .cld 0xD8 (fun c => { c with p := { c.p with d := false } }) ∧
  Implied .sed 0xF8 (fun c => { c with p := { c.p with d := true } }) ∧
  Implied .clv 0xB8 (fun c => { c with p := { c.p with v := false } }) ∧
  Implied .nop 0xEA (fun c => c)

/-! ## Interrupts -/

/-- R244, R246, R247, R249 (D4, D5, D7, D9): at a boundary a pending NMI is taken first, whatever I and IRQ_LINE hold: the
flag is cleared and the entry through 0xFFFA is made with the address of the next instruction and bit 4 clear; its cost
of 7 begins with this call. -/
def Obligations.PendingNmiIsTakenAtABoundary : Prop :=
  ∀ s : State, s.cpu.resetDone = true → s.cpu.cycles = 0 → s.nmiPending = true →
    ∃ lo hi t, Entered { s with nmiPending := false } t s.cpu.pc false 0xFFFA lo hi ∧
      cpuClock s = .next { t with cpu := { t.cpu with cycles := 6 } }

/-- R245, R248, R249, R180 (D7, D8, D9): at a boundary with no NMI pending the IRQ is taken exactly when the line is asserted
and I is 0; with the line asserted, it is taken right after a CLI. -/
def Obligations.IrqIsTakenWhenUnmasked : Prop :=
  (∀ s : State, s.cpu.resetDone = true → s.cpu.cycles = 0 → s.nmiPending = false → s.irqLine = true →
    s.cpu.p.i = false → ∃ lo hi t, Entered s t s.cpu.pc false 0xFFFE lo hi ∧
      cpuClock s = .next { t with cpu := { t.cpu with cycles := 6 } }) ∧
  (∀ s : State, s.cpu.resetDone = true → s.cpu.cycles = 0 → NoInterrupt s → cpuClock s = tick (runInstr s)) ∧
  ∀ s : State, s.cpu.resetDone = true → s.nmiPending = false → s.irqLine = true →
    ∃ t u lo hi v, exec .cli s = .next t ∧ clocks 2 t = .next u ∧
      Entered u v s.cpu.pc false 0xFFFE lo hi ∧ cpuClock u = .next { v with cpu := { v.cpu with cycles := 6 } }

/-- R236, R242, R243 (D23): over every call of the host. Vblank becomes 1 only in the PPU call at (241, 1). A pending NMI
appears only there with NMI-enable set, or in a call that writes CTRL with NMI-enable set. It goes away only in a CPU reset
or in a CPU call at a boundary. -/
def Obligations.VblankAndNmiSources : Prop :=
  ∀ (c : HostCall) (s t : State), runCall c s = .next t →
    (s.ppu.vblank = false → t.ppu.vblank = true →
      c = .ppuClock ∧ s.ppu.scanline = 241 ∧ s.ppu.dot = 1) ∧
    (s.nmiPending = false → t.nmiPending = true →
      (c = .ppuClock ∧ s.ppu.scanline = 241 ∧ s.ppu.dot = 1 ∧ s.ppu.ctrl.getLsbD 7 = true) ∨
      (∃ d : Byte, c = .ppuWrite 0 d ∧ d.getLsbD 7 = true ∧ s.ppu.vblank = true) ∨
      (c = .cpuClock ∧ ∃ events, t.io = s.io ++ events ∧ ∃ e ∈ events, enablesNmi e)) ∧
    (s.nmiPending = true → t.nmiPending = false →
      c = .cpuReset ∨ (c = .cpuClock ∧ s.cpu.cycles = 0))

/-! ## The register port -/

/-- R187, R188, R191, R235, R240 (D19, D33): a call of the port before the PPU reset faults, an index over 7 faults by name,
a STATUS read is refused under Refuse with sprites shown, and every other call answers; a write to STATUS and a read of a
write-only register change nothing but the count of draws. -/
def Obligations.PortChecks : Prop :=
  ∀ (i : Nat) (d : Byte) (s : State),
    (s.ppu.resetDone = false → portRead i s = .fault (.notReset .ppu) ∧ portWrite i d s = .fault (.notReset .ppu)) ∧
    (s.ppu.resetDone = true → 7 < i →
      portRead i s = .fault (.badRegisterIndex i) ∧ portWrite i d s = .fault (.badRegisterIndex i)) ∧
    (s.ppu.resetDone = true → i ≤ 7 → (∃ t, portWrite i d s = .ok () t) ∧
      (¬(i = 2 ∧ s.params.spriteStatus = .refuse ∧ s.ppu.mask.getLsbD 4 = true) → ∃ r t, portRead i s = .ok r t)) ∧
    (s.ppu.resetDone = true → s.params.spriteStatus = .refuse → s.ppu.mask.getLsbD 4 = true →
      portRead 2 s = .refused .unsupportedSpriteStatus) ∧
    (s.ppu.resetDone = true → portWrite 2 d s = .ok () s) ∧
    (s.ppu.resetDone = true → i ∈ [0, 1, 3, 5, 6] → ∃ r, portRead i s = .ok r { s with draws := s.draws + 1 })

/-- R189, R190, R243 (D23; D38 for the MASK bits without effect): a CTRL write stores the byte, copies its nametable bits to
`t` and raises the NMI on a rising edge of vblank and NMI-enable, never withdrawing one; a MASK write stores the byte. -/
def Obligations.ControlAndMaskWrites : Prop :=
  ∀ (d : Byte) (s : State), s.ppu.resetDone = true →
    portWrite 0 d s = .ok () { s with
      nmiPending := s.nmiPending || (s.ppu.vblank && d.getLsbD 7 && !s.ppu.nmiOutputPrev)
      ppu := { s.ppu with
        ctrl := d
        t := vramAddress (fineY s.ppu.t) (d.extractLsb' 0 2) (coarseY s.ppu.t) (coarseX s.ppu.t)
        nmiOutputPrev := s.ppu.vblank && d.getLsbD 7 } } ∧
    portWrite 1 d s = .ok () { s with ppu := { s.ppu with mask := d } }

/-- R197 to R200 (D21: the copy into `v` is immediate): the SCROLL and ADDR writes by the latch they share, with the fields
of `t` they fill. -/
def Obligations.ScrollAndAddressWrites : Prop :=
  ∀ (d : Byte) (s : State), s.ppu.resetDone = true →
    (s.ppu.w = false →
      portWrite 5 d s = .ok () { s with ppu := { s.ppu with
        t := vramAddress (fineY s.ppu.t) (nametable s.ppu.t) (coarseY s.ppu.t) (d.extractLsb' 3 5)
        x := d.extractLsb' 0 3
        w := true } } ∧
      portWrite 6 d s = .ok () { s with ppu := { s.ppu with
        t := 0#1 ++ d.extractLsb' 0 6 ++ s.ppu.t.extractLsb' 0 8
        w := true } }) ∧
    (s.ppu.w = true →
      portWrite 5 d s = .ok () { s with ppu := { s.ppu with
        t := vramAddress (d.extractLsb' 0 3) (nametable s.ppu.t) (d.extractLsb' 3 5) (coarseX s.ppu.t)
        w := false } } ∧
      portWrite 6 d s = .ok () { s with ppu := { s.ppu with
        t := s.ppu.t.extractLsb' 8 7 ++ d
        v := s.ppu.t.extractLsb' 8 7 ++ d
        w := false } })

/-- R192, R193, R205 (D18, D23): a STATUS read returns the three stored bits as they were above five undriven ones, then
clears vblank and the latch and keeps the sprite bits and a pending NMI; a second read at once returns vblank 0. -/
def Obligations.StatusReadClearsVblankAndLatch : Prop :=
  ∀ s : State, BusReady s → ∃ r r' t u, portRead 2 s = .ok r t ∧ portRead 2 t = .ok r' u ∧
    r.getLsbD 7 = s.ppu.vblank ∧ r.getLsbD 6 = s.ppu.sprite0Hit ∧ r.getLsbD 5 = s.ppu.spriteOverflow ∧
    t = { s with draws := s.draws + 1, ppu := { s.ppu with vblank := false, w := false, nmiOutputPrev := false } } ∧
    r'.getLsbD 7 = false ∧ r'.getLsbD 6 = s.ppu.sprite0Hit ∧ r'.getLsbD 5 = s.ppu.spriteOverflow ∧
    u.ppu = t.ppu ∧ u.nmiPending = s.nmiPending

/-- R194 to R196 (D22): OAMADDR writes the index; OAMDATA writes the byte there and moves the index on modulo 256; a read
back at that index returns the byte, with bits 4..2 clear where the index is an attribute byte's, moves nothing, and every
other byte reads as before. -/
def Obligations.OamPort : Prop :=
  ∀ (k j d : Byte) (s : State), s.ppu.resetDone = true →
    portWrite 3 k s = .ok () { s with ppu := { s.ppu with oamAddr := k } } ∧
    ∃ t, portWrite 4 d s = .ok () t ∧ t.ppu.oamAddr = s.ppu.oamAddr + 1 ∧
      t = { s with ppu := { s.ppu with oam := t.ppu.oam, oamAddr := t.ppu.oamAddr } } ∧
      (∀ u : State, u.ppu.resetDone = true → u.ppu.oam = t.ppu.oam → u.ppu.oamAddr = s.ppu.oamAddr →
        portRead 4 u = .ok (if u.ppu.oamAddr.toNat % 4 = 2 then d &&& 0xE3 else d) u) ∧
      (j ≠ s.ppu.oamAddr → ∀ u u' : State, u.ppu.resetDone = true → u'.ppu.resetDone = true → u.ppu.oam = t.ppu.oam →
        u'.ppu.oam = s.ppu.oam → u.ppu.oamAddr = j → u'.ppu.oamAddr = j →
        ∃ r, portRead 4 u = .ok r u ∧ portRead 4 u' = .ok r u')

/-- R201 to R203, R71 (D20, D21): the DATA port on PPU memory assumed to be RAM or ROM, the model's premise (log 3). A read
below 0x3F00 returns the buffer and refills it from the address; a palette read returns the byte at once and keeps the
buffer, or refills it from 0x1000 below under the parameter; a write stores the byte; each access moves `v` on by 1 or 32
modulo 2^15. -/
def Obligations.DataPortReadsAndWrites : Prop :=
  ∀ (d : Byte) (s : State), s.ppu.resetDone = true → (∀ a : Nat, a < 0x4000 → s.ppuBus.kindAt a ≠ .free) →
    let a : Nat := s.ppu.v.toNat % 0x4000
    let v' : BitVec 15 := BitVec.ofNat 15 (s.ppu.v.toNat + (if s.ppu.ctrl.getLsbD 2 then 32 else 1))
    (a < 0x3F00 → portRead 7 s = .ok s.ppu.readBuffer { s.record (.ppuRead (BitVec.ofNat 14 a) (s.ppuBus.peek a)) with
      ppu := { s.ppu with readBuffer := s.ppuBus.peek a, v := v' } }) ∧
    (0x3F00 ≤ a → s.params.paletteReadRefillsBuffer = false →
      portRead 7 s = .ok (s.ppuBus.peek a) { s.record (.ppuRead (BitVec.ofNat 14 a) (s.ppuBus.peek a)) with
      ppu := { s.ppu with v := v' } }) ∧
    (0x3F00 ≤ a → s.params.paletteReadRefillsBuffer = true →
      portRead 7 s = .ok (s.ppuBus.peek a) { s.recordAll [.ppuRead (BitVec.ofNat 14 a) (s.ppuBus.peek a),
        .ppuRead (BitVec.ofNat 14 (a - 0x1000)) (s.ppuBus.peek (a - 0x1000))] with
      ppu := { s.ppu with readBuffer := s.ppuBus.peek (a - 0x1000), v := v' } }) ∧
    ∃ t, portWrite 7 d s = .ok () t ∧ t.ppu = { s.ppu with v := v' } ∧
      Recorded s t [.ppuWrite (BitVec.ofNat 14 a) d] ∧ t.cpu = s.cpu ∧ t.ext = s.ext ∧ t.nmiPending = s.nmiPending ∧
      t.draws = s.draws ∧ SameHost s t ∧ t.ppuBus.regions = s.ppuBus.regions ∧
      ∀ b : Nat, t.ppuBus.peek b = if b = a ∧ s.ppuBus.kindAt a = .ram then d else s.ppuBus.peek b

/-- R206: the data-port round trip. With the latch clear, ADDR set to a nametable address that is RAM, a DATA write, ADDR set
again and two DATA reads: the first returns the old buffer, the second the byte written. The spec's sentence fails where
the second read's own address, one increment on, already is palette space, so that case is left out here. -/
def Obligations.DataPortRoundTrip : Prop :=
  ∀ (s : State) (n : Word) (d : Byte), s.ppu.resetDone = true → s.ppu.w = false → 0x2000 ≤ n.toNat →
    n.toNat + (if s.ppu.ctrl.getLsbD 2 then 32 else 1) < 0x3F00 → s.ppuBus.kindAt n.toNat = .ram →
    ∃ s1 s2 s3 s4 s5 s6 s7, portWrite 6 (highByte n) s = .ok () s1 ∧ portWrite 6 (lowByte n) s1 = .ok () s2 ∧
      portWrite 7 d s2 = .ok () s3 ∧ portWrite 6 (highByte n) s3 = .ok () s4 ∧ portWrite 6 (lowByte n) s4 = .ok () s5 ∧
      portRead 7 s5 = .ok s.ppu.readBuffer s6 ∧ portRead 7 s6 = .ok d s7

/-- R207: a register call that answers steps no counter, no shift register and no latch of the pipeline, sets neither sprite
bit, leaves the CPU, ExtBus, the parameters and the schedule; each register, field and flag changes only in the calls whose
rule names it: a read of STATUS or DATA, a write of the register itself, `t` by CTRL, SCROLL and ADDR, the latch by SCROLL and
ADDR, `v` by ADDR and DATA, OAM and its index by OAMDATA; only a CTRL write or a STATUS read moves the NMI condition and its
edge memory, and only a DATA access reaches the PPU bus. -/
def Obligations.PortCallsChangeOnlyTheirRegister : Prop :=
  ∀ (i : Nat) (s t : State),
    ((∃ d, portRead i s = .ok d t) → PipelineKept s.ppu t.ppu ∧ CpuSideKept s t ∧ t.ppuBus = s.ppuBus ∧
      t.nmiPending = s.nmiPending ∧ t.irqLine = s.irqLine ∧ t.ppu.ctrl = s.ppu.ctrl ∧ t.ppu.mask = s.ppu.mask ∧
      t.ppu.oam = s.ppu.oam ∧ t.ppu.oamAddr = s.ppu.oamAddr ∧ t.ppu.t = s.ppu.t ∧ t.ppu.x = s.ppu.x ∧
      (i ≠ 2 → t.ppu.vblank = s.ppu.vblank ∧ t.ppu.w = s.ppu.w ∧ t.ppu.nmiOutputPrev = s.ppu.nmiOutputPrev) ∧
      (i ≠ 7 → t.ppu.v = s.ppu.v ∧ t.ppu.readBuffer = s.ppu.readBuffer ∧ Recorded s t [])) ∧
    ∀ d : Byte, portWrite i d s = .ok () t → PipelineKept s.ppu t.ppu ∧ CpuSideKept s t ∧
      t.ppu.vblank = s.ppu.vblank ∧ t.ppu.readBuffer = s.ppu.readBuffer ∧ t.irqLine = s.irqLine ∧ t.draws = s.draws ∧
      (i ≠ 0 → t.nmiPending = s.nmiPending ∧ t.ppu.nmiOutputPrev = s.ppu.nmiOutputPrev ∧ t.ppu.ctrl = s.ppu.ctrl) ∧
      (i ≠ 1 → t.ppu.mask = s.ppu.mask) ∧
      (i ≠ 3 → i ≠ 4 → t.ppu.oamAddr = s.ppu.oamAddr) ∧
      (i ≠ 4 → t.ppu.oam = s.ppu.oam) ∧
      (i ≠ 5 → t.ppu.x = s.ppu.x) ∧
      (i ≠ 5 → i ≠ 6 → t.ppu.w = s.ppu.w) ∧
      (i ≠ 0 → i ≠ 5 → i ≠ 6 → t.ppu.t = s.ppu.t) ∧
      (i ≠ 6 → i ≠ 7 → t.ppu.v = s.ppu.v) ∧
      (i ≠ 7 → t.ppuBus = s.ppuBus ∧ Recorded s t [])

/-! ## The rendering machine -/

/-- R42, R214 to R217 (C6: coarse Y 30 goes to 31, and 31 to 0): the scroll arithmetic by the fields of `v`: the coarse X
step, the Y step with its two wraps, and the two copies from `t`. -/
def Obligations.ScrollArithmeticByFields : Prop :=
  ∀ v t : BitVec 15, incrementX v = stepX v ∧ incrementY v = stepY v ∧ horizontalCopy v t = copyX v t ∧
    verticalCopy v t = copyY v t

/-- R220 to R223, R71 (the bound is the spec's own inference): the four fetches by the numbers the fields stand for: each
makes one read at its address and loads its latch; the attribute pair is the quadrant's two bits; every address is below
0x3000. -/
def Obligations.BackgroundFetches : Prop :=
  ∀ s : State,
    let v := s.ppu.v
    let pattern := (if s.ppu.ctrl.getLsbD 4 then 0x1000 else 0) + 16 * s.ppu.bgNextNt.toNat + (fineY v).toNat
    let shift := 4 * ((coarseY v).toNat / 2 % 2) + 2 * ((coarseX v).toNat / 2 % 2)
    ((nametableAddress v).toNat =
      0x2000 + 0x400 * (nametable v).toNat + 32 * (coarseY v).toNat + (coarseX v).toNat) ∧
    ((attributeAddress v).toNat =
      0x23C0 + 0x400 * (nametable v).toNat + 8 * ((coarseY v).toNat / 4) + (coarseX v).toNat / 4) ∧
    (patternAddress s.ppu).toNat = pattern ∧ (patternAddress s.ppu + 8).toNat = pattern + 8 ∧
    (nametableAddress v).toNat < 0x3000 ∧ (attributeAddress v).toNat < 0x3000 ∧ pattern + 8 < 0x3000 ∧
    (∃ d u, ppuBusRead (nametableAddress v) s = (d, u) ∧
      fetchNametable s = { u with ppu := { s.ppu with bgNextNt := d } }) ∧
    (∃ d u, ppuBusRead (attributeAddress v) s = (d, u) ∧
      fetchAttribute s = { u with ppu := { s.ppu with bgNextAt := BitVec.ofNat 2 (d.toNat / 2 ^ shift) } }) ∧
    (∃ d u, ppuBusRead (patternAddress s.ppu) s = (d, u) ∧
      fetchPatternLow s = { u with ppu := { s.ppu with bgNextLo := d } }) ∧
    ∃ d u, ppuBusRead (patternAddress s.ppu + 8) s = (d, u) ∧
      fetchPatternHigh s = { u with ppu := { s.ppu with bgNextHi := d } }

/-- R219, R224 to R227, R232 (D26 to D29, D40): the dot of a rendering line: at most one PPU read, at the address the schedule
gives and with the latch it fills; `v` moved by the schedule; the shift registers shifted and reloaded; nothing else of
the machine changed. -/
def Obligations.RenderingDotSchedule : Prop :=
  ∀ s : State, Rendering s → ∃ d : Byte,
    (∀ a, dotAddress s = some a → (ppuBusRead a s).1 = d) ∧
    renderDot s = { s.recordAll (match dotAddress s with
        | some a => [.ppuRead a d]
        | none => []) with
      ppu := { s.ppu with
        v := nextV s
        shPtLo := nextShifter s.ppu.dot s.ppu.shPtLo s.ppu.bgNextLo
        shPtHi := nextShifter s.ppu.dot s.ppu.shPtHi s.ppu.bgNextHi
        shAtLo := nextShifter s.ppu.dot s.ppu.shAtLo (spread (s.ppu.bgNextAt.getLsbD 0))
        shAtHi := nextShifter s.ppu.dot s.ppu.shAtHi (spread (s.ppu.bgNextAt.getLsbD 1))
        bgNextNt := if FetchDot s.ppu.dot ∧ s.ppu.dot % 8 = 1 then d else s.ppu.bgNextNt
        bgNextAt := if FetchDot s.ppu.dot ∧ s.ppu.dot % 8 = 3 then (d >>> attributeShift s.ppu.v).setWidth 2
          else s.ppu.bgNextAt
        bgNextLo := if FetchDot s.ppu.dot ∧ s.ppu.dot % 8 = 5 then d else s.ppu.bgNextLo
        bgNextHi := if FetchDot s.ppu.dot ∧ s.ppu.dot % 8 = 7 then d else s.ppu.bgNextHi } }

/-- R38 (D38), R213 (D25), R230, R231 (D30): with rendering disabled a dot makes no read and moves no `v`, latch or shift register;
only the vblank events, the advance and, in the picture, the pixel 0 and the greyscale bit handed with it (log 28) happen. -/
def Obligations.RenderingDisabledDoesNothing : Prop :=
  ∀ s : State, s.ppu.resetDone = true → s.ppu.mask.getLsbD 3 = false → s.ppu.mask.getLsbD 4 = false →
    ∃ t, ppuClock s = .ok () t ∧
      t.ppu = { s.ppu with
        scanline := t.ppu.scanline, dot := t.ppu.dot, vblank := t.ppu.vblank, sprite0Hit := t.ppu.sprite0Hit
        spriteOverflow := t.ppu.spriteOverflow, nmiOutputPrev := t.ppu.nmiOutputPrev } ∧
      t.ppuBus = s.ppuBus ∧ t.draws = s.draws ∧ t.history = s.history ∧
      t.io = s.io ++ (if 0 ≤ s.ppu.scanline ∧ s.ppu.scanline ≤ 239 ∧ 1 ≤ s.ppu.dot ∧ s.ppu.dot ≤ 256 then
        [.pixel (s.ppu.dot - 1) s.ppu.scanline 0, .greyscale (s.ppu.mask.getLsbD 0)] else [])

/-- R38, R210, R211, R213, R225 to R231, R238 (D25, D28, D30, D38): what one PPU `clock()` leaves. On a rendering line the picture core
`renderDot` gives, on every other dot the one it had, with the position moved on by `advance` and with the status bits and
the edge memory of its status events; the CPU, the bytes of both buses, the inputs, the parameters and the schedule stay.
It emits one pixel at dots 1..256 of lines 0..239 and none elsewhere; the index is the two attribute bits above the two
pattern bits that fine X selects after the dot's shift and reload, and 0 where the background is masked. With each pixel the
greyscale bit of MASK is handed on, which changes no index (that it goes with each pixel is the model's choice, log 28). -/
def Obligations.PixelOfADot : Prop :=
  ∀ s : State, s.ppu.resetDone = true → ∃ t, ppuClock s = .ok () t ∧
    let p := (renderDot s).ppu
    let b := 15 - p.x.toNat
    let shown := s.ppu.mask.getLsbD 3 = true ∧ (s.ppu.mask.getLsbD 1 = true ∨ 8 < s.ppu.dot)
    t.io = (renderDot s).io ++
      (if 0 ≤ s.ppu.scanline ∧ s.ppu.scanline ≤ 239 ∧ 1 ≤ s.ppu.dot ∧ s.ppu.dot ≤ 256 then
        [.pixel (s.ppu.dot - 1) s.ppu.scanline (if shown then
          BitVec.ofNat 4 (8 * (p.shAtHi.getLsbD b).toNat + 4 * (p.shAtLo.getLsbD b).toNat +
            2 * (p.shPtHi.getLsbD b).toNat + (p.shPtLo.getLsbD b).toNat) else 0),
          .greyscale (s.ppu.mask.getLsbD 0)]
      else []) ∧
    t.ppu = { p with
      scanline := (advance s.ppu).scanline
      dot := (advance s.ppu).dot
      vblank := t.ppu.vblank
      sprite0Hit := t.ppu.sprite0Hit
      spriteOverflow := t.ppu.spriteOverflow
      nmiOutputPrev := t.ppu.nmiOutputPrev } ∧
    (¬Rendering s → renderDot s = s) ∧ t.history = (renderDot s).history ∧
    CpuSideKept s t ∧ t.ppuBus = s.ppuBus ∧ t.irqLine = s.irqLine

/-- R211, R212 (D31): every PPU `clock()` moves the position on by exactly one dot, from the last dot of line 260 back to
(-1, 0), and keeps it in the frame; `n` calls move it on by `n` dots modulo 89,342, so that 89,342 calls return it to where
it was. -/
def Obligations.FrameIsOf89342Dots : Prop :=
  ∀ s : State, s.ppu.resetDone = true → -1 ≤ s.ppu.scanline → s.ppu.scanline ≤ 260 → s.ppu.dot ≤ 340 →
    (∃ t, ppuClock s = .ok () t ∧
      t.ppu.dot = (if s.ppu.dot = 340 then 0 else s.ppu.dot + 1) ∧
      t.ppu.scanline = (if s.ppu.dot = 340 then (if s.ppu.scanline = 260 then -1 else s.ppu.scanline + 1)
        else s.ppu.scanline)) ∧
    (∀ n : Nat, ∃ t, dots n s = .next t ∧ t.ppu.resetDone = true ∧
      positionNumber t.ppu = (positionNumber s.ppu + n) % 89342 ∧
      -1 ≤ t.ppu.scanline ∧ t.ppu.scanline ≤ 260 ∧ t.ppu.dot ≤ 340) ∧
    ∃ t, dots 89342 s = .next t ∧ t.ppu.scanline = s.ppu.scanline ∧ t.ppu.dot = s.ppu.dot

/-- R233, R234, R235, R243 (D23 for the edge, D32 for the sprite bits): the status events of a frame. At (241, 1) vblank
becomes 1 and a rising edge with NMI-enable raises the flag, whether or not rendering is enabled; at (-1, 1) the three
status bits become 0 and nothing is raised; the other dots leave vblank and the flag. A sprite bit stays set until (-1,
1), and becomes set only under `Draw`, on lines 0..239: sprite-zero hit at dots 1..256 with both enables, overflow with
rendering enabled. -/
def Obligations.VblankSetAndClear : Prop :=
  ∀ s : State, s.ppu.resetDone = true → ∃ t, ppuClock s = .ok () t ∧
    (s.ppu.scanline = 241 → s.ppu.dot = 1 → t.ppu.vblank = true ∧
      t.ppu.nmiOutputPrev = s.ppu.ctrl.getLsbD 7 ∧
      t.nmiPending = (s.nmiPending || (s.ppu.ctrl.getLsbD 7 && !s.ppu.nmiOutputPrev))) ∧
    (s.ppu.scanline = -1 → s.ppu.dot = 1 → t.ppu.vblank = false ∧ t.ppu.sprite0Hit = false ∧
      t.ppu.spriteOverflow = false ∧ t.ppu.nmiOutputPrev = false ∧ t.nmiPending = s.nmiPending) ∧
    (¬(s.ppu.scanline = 241 ∧ s.ppu.dot = 1) → ¬(s.ppu.scanline = -1 ∧ s.ppu.dot = 1) →
      t.ppu.vblank = s.ppu.vblank ∧ t.nmiPending = s.nmiPending ∧ t.ppu.nmiOutputPrev = s.ppu.nmiOutputPrev) ∧
    (¬(s.ppu.scanline = -1 ∧ s.ppu.dot = 1) → (s.ppu.sprite0Hit = true → t.ppu.sprite0Hit = true) ∧
      (s.ppu.spriteOverflow = true → t.ppu.spriteOverflow = true)) ∧
    (s.ppu.sprite0Hit = false → t.ppu.sprite0Hit = true → s.params.spriteStatus = .draw ∧ 0 ≤ s.ppu.scanline ∧
      s.ppu.scanline ≤ 239 ∧ 1 ≤ s.ppu.dot ∧ s.ppu.dot ≤ 256 ∧ s.ppu.mask.getLsbD 3 = true ∧
      s.ppu.mask.getLsbD 4 = true) ∧
    (s.ppu.spriteOverflow = false → t.ppu.spriteOverflow = true → s.params.spriteStatus = .draw ∧
      0 ≤ s.ppu.scanline ∧ s.ppu.scanline ≤ 239 ∧ (s.ppu.mask.getLsbD 3 = true ∨ s.ppu.mask.getLsbD 4 = true))

/-! ## The two units apart -/

/-- R7, R237, R207: no call on the picture core, and no inspection, changes the CPU, ExtBus, the parameters or the
schedule. -/
def Obligations.PictureCallsLeaveTheProcessor : Prop :=
  ∀ (c : HostCall) (s t : State), c ≠ .cpuReset → c ≠ .cpuClock → runCall c s = .next t → CpuSideKept s t

/-- R7, R62, R207: a CPU call leaves the host's side, changes the bytes assumed of ExtBus at the addresses it writes and
nowhere else, and leaves the whole picture core and PPU memory unless it makes an access to the register window; without
one it can at most take a pending NMI. -/
def Obligations.ProcessorReachesThePpuOnlyByTheWindow : Prop :=
  ∀ s t : State, cpuClock s = .next t → SameHost s t ∧ ∃ events, Recorded s t events ∧
    (∀ a : Nat, (∀ (w : Word) (d : Byte), IoEvent.cpuWrite w d ∈ events → w.toNat ≠ a) → t.ext.peek a = s.ext.peek a) ∧
    ((∀ e ∈ events, e.inWindow = false) → t.ppu = s.ppu ∧ t.ppuBus = s.ppuBus ∧
      (t.nmiPending = s.nmiPending ∨ t.nmiPending = false))

/-! ## Resets and the invariant -/

/-- R260 (D2, D3, D10): the CPU reset loads the named registers and the countdown, PC from the little-endian word at 0xFFFC,
clears the pending NMI, and makes two reads and nothing else; with the spec's parameters A, X, Y are 0, SP is 0xFD and P as
a byte is 0x24. -/
def Obligations.CpuResetLoadsItsValues : Prop :=
  ∀ s : State, ∃ lo hi t, cpuReset s = .ok () t ∧ t.nmiPending = false ∧ t.ext = s.ext ∧ t.ppu = s.ppu ∧
    t.ppuBus = s.ppuBus ∧ SameHost s t ∧ Recorded s t [.cpuRead 0xFFFC lo, .cpuRead 0xFFFD hi] ∧
    t.cpu = { a := s.params.cpuResetRegs.a, x := s.params.cpuResetRegs.x, y := s.params.cpuResetRegs.y
              sp := s.params.cpuResetRegs.sp, p := s.params.cpuResetRegs.p, pc := word16 hi lo
              cycles := s.params.resetCycles, resetDone := true } ∧
    (s.ext.kindAt 0xFFFC ≠ .free → lo = s.ext.peek 0xFFFC) ∧ (s.ext.kindAt 0xFFFD ≠ .free → hi = s.ext.peek 0xFFFD) ∧
    (s.params = Params.spec → t.cpu.a = 0x00 ∧ t.cpu.x = 0x00 ∧ t.cpu.y = 0x00 ∧ t.cpu.sp = 0xFD ∧
      t.cpu.p.toByte = 0x24 ∧ t.cpu.cycles = 7)

/-- R262, R51 (D33): the PPU reset loads every value of R51 from any state, touches neither the pending NMI nor a bus nor the
CPU, and leaves OAM with no written byte. -/
def Obligations.PpuResetLoadsItsValues : Prop :=
  ∀ s : State, ∃ t, runCall .ppuReset s = .next t ∧
    t.ppu = { Ppu.reset with
      oam := { cells := [], epoch := s.draws }
      scanline := s.params.ppuResetScanline
      dot := s.params.ppuResetDot } ∧
    t = { s with ppu := t.ppu, draws := s.draws + 1 }

/-- R36, R51, R49, R45, R60, R70: the invariant holds of the machine at reset. -/
def Obligations.InvariantHoldsAtReset : Prop := Inv State.reset

/-- R32, R40, R45, R49, R60, R70, R211, R235, R243: whatever call a step makes, from any state in which the invariant holds
the next state has it: both memories and OAM keep their canonical form, the position stays in the frame, the countdown in
its range, the edge memory equal to the NMI condition, and the sprite bits 0 but under Draw. -/
def Obligations.StepKeepsTheInvariant : Prop :=
  ∀ s t : State, Inv s → step s = .next t → Inv t

end
end

