-- ==== Sys2Proof/Laws/State.lean ====
section
/-! SUPPORT. What each named update of State leaves in each field: one lemma per field per update, true by definition. -/

namespace Sys2Proof.Machine

@[simp] theorem State.record_cpu (e : IoEvent) (s : State) : (s.record e).cpu = s.cpu := rfl
@[simp] theorem State.record_ppu (e : IoEvent) (s : State) : (s.record e).ppu = s.ppu := rfl
@[simp] theorem State.record_nmiPending (e : IoEvent) (s : State) : (s.record e).nmiPending = s.nmiPending := rfl
@[simp] theorem State.record_irqLine (e : IoEvent) (s : State) : (s.record e).irqLine = s.irqLine := rfl
@[simp] theorem State.record_ext (e : IoEvent) (s : State) : (s.record e).ext = s.ext := rfl
@[simp] theorem State.record_ppuBus (e : IoEvent) (s : State) : (s.record e).ppuBus = s.ppuBus := rfl
@[simp] theorem State.record_params (e : IoEvent) (s : State) : (s.record e).params = s.params := rfl
@[simp] theorem State.record_calls (e : IoEvent) (s : State) : (s.record e).calls = s.calls := rfl
@[simp] theorem State.record_loop (e : IoEvent) (s : State) : (s.record e).loop = s.loop := rfl
@[simp] theorem State.record_draws (e : IoEvent) (s : State) : (s.record e).draws = s.draws := rfl
@[simp] theorem State.record_io (e : IoEvent) (s : State) : (s.record e).io = s.io ++ [e] := rfl
@[simp] theorem State.record_history (e : IoEvent) (s : State) : (s.record e).history = e :: s.history := rfl
@[simp] theorem State.record_toBlock (e : IoEvent) (s : State) : (s.record e).toBlock = s.toBlock := rfl
@[simp] theorem State.record_toStepParameters (e : IoEvent) (s : State) :
    (s.record e).toStepParameters = { s.toStepParameters with io := s.io ++ [e], history := e :: s.history } := rfl

@[simp] theorem State.recordAll_cpu (events : List IoEvent) (s : State) : (s.recordAll events).cpu = s.cpu := rfl
@[simp] theorem State.recordAll_ppu (events : List IoEvent) (s : State) : (s.recordAll events).ppu = s.ppu := rfl
@[simp] theorem State.recordAll_nmiPending (events : List IoEvent) (s : State) :
    (s.recordAll events).nmiPending = s.nmiPending := rfl
@[simp] theorem State.recordAll_irqLine (events : List IoEvent) (s : State) :
    (s.recordAll events).irqLine = s.irqLine := rfl
@[simp] theorem State.recordAll_ext (events : List IoEvent) (s : State) : (s.recordAll events).ext = s.ext := rfl
@[simp] theorem State.recordAll_ppuBus (events : List IoEvent) (s : State) : (s.recordAll events).ppuBus = s.ppuBus := rfl
@[simp] theorem State.recordAll_params (events : List IoEvent) (s : State) : (s.recordAll events).params = s.params := rfl
@[simp] theorem State.recordAll_calls (events : List IoEvent) (s : State) : (s.recordAll events).calls = s.calls := rfl
@[simp] theorem State.recordAll_loop (events : List IoEvent) (s : State) : (s.recordAll events).loop = s.loop := rfl
@[simp] theorem State.recordAll_draws (events : List IoEvent) (s : State) : (s.recordAll events).draws = s.draws := rfl
@[simp] theorem State.recordAll_io (events : List IoEvent) (s : State) : (s.recordAll events).io = s.io ++ events := rfl
@[simp] theorem State.recordAll_history (events : List IoEvent) (s : State) :
    (s.recordAll events).history = events.reverse ++ s.history := rfl
@[simp] theorem State.recordAll_toBlock (events : List IoEvent) (s : State) :
    (s.recordAll events).toBlock = s.toBlock := rfl
@[simp] theorem State.recordAll_toStepParameters (events : List IoEvent) (s : State) :
    (s.recordAll events).toStepParameters =
      { s.toStepParameters with io := s.io ++ events, history := events.reverse ++ s.history } := rfl

@[simp] theorem State.emit_cpu (e : IoEvent) (s : State) : (s.emit e).cpu = s.cpu := rfl
@[simp] theorem State.emit_ppu (e : IoEvent) (s : State) : (s.emit e).ppu = s.ppu := rfl
@[simp] theorem State.emit_nmiPending (e : IoEvent) (s : State) : (s.emit e).nmiPending = s.nmiPending := rfl
@[simp] theorem State.emit_irqLine (e : IoEvent) (s : State) : (s.emit e).irqLine = s.irqLine := rfl
@[simp] theorem State.emit_ext (e : IoEvent) (s : State) : (s.emit e).ext = s.ext := rfl
@[simp] theorem State.emit_ppuBus (e : IoEvent) (s : State) : (s.emit e).ppuBus = s.ppuBus := rfl
@[simp] theorem State.emit_params (e : IoEvent) (s : State) : (s.emit e).params = s.params := rfl
@[simp] theorem State.emit_calls (e : IoEvent) (s : State) : (s.emit e).calls = s.calls := rfl
@[simp] theorem State.emit_loop (e : IoEvent) (s : State) : (s.emit e).loop = s.loop := rfl
@[simp] theorem State.emit_draws (e : IoEvent) (s : State) : (s.emit e).draws = s.draws := rfl
@[simp] theorem State.emit_io (e : IoEvent) (s : State) : (s.emit e).io = s.io ++ [e] := rfl
@[simp] theorem State.emit_history (e : IoEvent) (s : State) : (s.emit e).history = s.history := rfl
@[simp] theorem State.emit_toBlock (e : IoEvent) (s : State) : (s.emit e).toBlock = s.toBlock := rfl
@[simp] theorem State.emit_toStepParameters (e : IoEvent) (s : State) :
    (s.emit e).toStepParameters = { s.toStepParameters with io := s.io ++ [e] } := rfl

@[simp] theorem State.nextDraw_cpu (s : State) : (s.nextDraw).cpu = s.cpu := rfl
@[simp] theorem State.nextDraw_ppu (s : State) : (s.nextDraw).ppu = s.ppu := rfl
@[simp] theorem State.nextDraw_nmiPending (s : State) : (s.nextDraw).nmiPending = s.nmiPending := rfl
@[simp] theorem State.nextDraw_irqLine (s : State) : (s.nextDraw).irqLine = s.irqLine := rfl
@[simp] theorem State.nextDraw_ext (s : State) : (s.nextDraw).ext = s.ext := rfl
@[simp] theorem State.nextDraw_ppuBus (s : State) : (s.nextDraw).ppuBus = s.ppuBus := rfl
@[simp] theorem State.nextDraw_params (s : State) : (s.nextDraw).params = s.params := rfl
@[simp] theorem State.nextDraw_calls (s : State) : (s.nextDraw).calls = s.calls := rfl
@[simp] theorem State.nextDraw_loop (s : State) : (s.nextDraw).loop = s.loop := rfl
@[simp] theorem State.nextDraw_draws (s : State) : (s.nextDraw).draws = s.draws + 1 := rfl
@[simp] theorem State.nextDraw_io (s : State) : (s.nextDraw).io = s.io := rfl
@[simp] theorem State.nextDraw_history (s : State) : (s.nextDraw).history = s.history := rfl
@[simp] theorem State.nextDraw_toBlock (s : State) : (s.nextDraw).toBlock = s.toBlock := rfl
@[simp] theorem State.nextDraw_toStepParameters (s : State) :
    (s.nextDraw).toStepParameters = { s.toStepParameters with draws := s.draws + 1 } := rfl

@[simp] theorem State.setCpu_cpu (c : Cpu) (s : State) : (s.setCpu c).cpu = c := rfl
@[simp] theorem State.setCpu_ppu (c : Cpu) (s : State) : (s.setCpu c).ppu = s.ppu := rfl
@[simp] theorem State.setCpu_nmiPending (c : Cpu) (s : State) : (s.setCpu c).nmiPending = s.nmiPending := rfl
@[simp] theorem State.setCpu_irqLine (c : Cpu) (s : State) : (s.setCpu c).irqLine = s.irqLine := rfl
@[simp] theorem State.setCpu_ext (c : Cpu) (s : State) : (s.setCpu c).ext = s.ext := rfl
@[simp] theorem State.setCpu_ppuBus (c : Cpu) (s : State) : (s.setCpu c).ppuBus = s.ppuBus := rfl
@[simp] theorem State.setCpu_params (c : Cpu) (s : State) : (s.setCpu c).params = s.params := rfl
@[simp] theorem State.setCpu_calls (c : Cpu) (s : State) : (s.setCpu c).calls = s.calls := rfl
@[simp] theorem State.setCpu_loop (c : Cpu) (s : State) : (s.setCpu c).loop = s.loop := rfl
@[simp] theorem State.setCpu_draws (c : Cpu) (s : State) : (s.setCpu c).draws = s.draws := rfl
@[simp] theorem State.setCpu_io (c : Cpu) (s : State) : (s.setCpu c).io = s.io := rfl
@[simp] theorem State.setCpu_history (c : Cpu) (s : State) : (s.setCpu c).history = s.history := rfl
@[simp] theorem State.setCpu_toBlock (c : Cpu) (s : State) : (s.setCpu c).toBlock = { s.toBlock with cpu := c } := rfl
@[simp] theorem State.setCpu_toStepParameters (c : Cpu) (s : State) :
    (s.setCpu c).toStepParameters = s.toStepParameters := rfl

@[simp] theorem State.setA_cpu (x : Byte) (s : State) : (s.setA x).cpu = { s.cpu with a := x } := rfl
@[simp] theorem State.setA_ppu (x : Byte) (s : State) : (s.setA x).ppu = s.ppu := rfl
@[simp] theorem State.setA_nmiPending (x : Byte) (s : State) : (s.setA x).nmiPending = s.nmiPending := rfl
@[simp] theorem State.setA_irqLine (x : Byte) (s : State) : (s.setA x).irqLine = s.irqLine := rfl
@[simp] theorem State.setA_ext (x : Byte) (s : State) : (s.setA x).ext = s.ext := rfl
@[simp] theorem State.setA_ppuBus (x : Byte) (s : State) : (s.setA x).ppuBus = s.ppuBus := rfl
@[simp] theorem State.setA_params (x : Byte) (s : State) : (s.setA x).params = s.params := rfl
@[simp] theorem State.setA_calls (x : Byte) (s : State) : (s.setA x).calls = s.calls := rfl
@[simp] theorem State.setA_loop (x : Byte) (s : State) : (s.setA x).loop = s.loop := rfl
@[simp] theorem State.setA_draws (x : Byte) (s : State) : (s.setA x).draws = s.draws := rfl
@[simp] theorem State.setA_io (x : Byte) (s : State) : (s.setA x).io = s.io := rfl
@[simp] theorem State.setA_history (x : Byte) (s : State) : (s.setA x).history = s.history := rfl
@[simp] theorem State.setA_toBlock (x : Byte) (s : State) :
    (s.setA x).toBlock = { s.toBlock with cpu := { s.cpu with a := x } } := rfl
@[simp] theorem State.setA_toStepParameters (x : Byte) (s : State) :
    (s.setA x).toStepParameters = s.toStepParameters := rfl

@[simp] theorem State.setSp_cpu (x : Byte) (s : State) : (s.setSp x).cpu = { s.cpu with sp := x } := rfl
@[simp] theorem State.setSp_ppu (x : Byte) (s : State) : (s.setSp x).ppu = s.ppu := rfl
@[simp] theorem State.setSp_nmiPending (x : Byte) (s : State) : (s.setSp x).nmiPending = s.nmiPending := rfl
@[simp] theorem State.setSp_irqLine (x : Byte) (s : State) : (s.setSp x).irqLine = s.irqLine := rfl
@[simp] theorem State.setSp_ext (x : Byte) (s : State) : (s.setSp x).ext = s.ext := rfl
@[simp] theorem State.setSp_ppuBus (x : Byte) (s : State) : (s.setSp x).ppuBus = s.ppuBus := rfl
@[simp] theorem State.setSp_params (x : Byte) (s : State) : (s.setSp x).params = s.params := rfl
@[simp] theorem State.setSp_calls (x : Byte) (s : State) : (s.setSp x).calls = s.calls := rfl
@[simp] theorem State.setSp_loop (x : Byte) (s : State) : (s.setSp x).loop = s.loop := rfl
@[simp] theorem State.setSp_draws (x : Byte) (s : State) : (s.setSp x).draws = s.draws := rfl
@[simp] theorem State.setSp_io (x : Byte) (s : State) : (s.setSp x).io = s.io := rfl
@[simp] theorem State.setSp_history (x : Byte) (s : State) : (s.setSp x).history = s.history := rfl
@[simp] theorem State.setSp_toBlock (x : Byte) (s : State) :
    (s.setSp x).toBlock = { s.toBlock with cpu := { s.cpu with sp := x } } := rfl
@[simp] theorem State.setSp_toStepParameters (x : Byte) (s : State) :
    (s.setSp x).toStepParameters = s.toStepParameters := rfl

@[simp] theorem State.setPc_cpu (x : Word) (s : State) : (s.setPc x).cpu = { s.cpu with pc := x } := rfl
@[simp] theorem State.setPc_ppu (x : Word) (s : State) : (s.setPc x).ppu = s.ppu := rfl
@[simp] theorem State.setPc_nmiPending (x : Word) (s : State) : (s.setPc x).nmiPending = s.nmiPending := rfl
@[simp] theorem State.setPc_irqLine (x : Word) (s : State) : (s.setPc x).irqLine = s.irqLine := rfl
@[simp] theorem State.setPc_ext (x : Word) (s : State) : (s.setPc x).ext = s.ext := rfl
@[simp] theorem State.setPc_ppuBus (x : Word) (s : State) : (s.setPc x).ppuBus = s.ppuBus := rfl
@[simp] theorem State.setPc_params (x : Word) (s : State) : (s.setPc x).params = s.params := rfl
@[simp] theorem State.setPc_calls (x : Word) (s : State) : (s.setPc x).calls = s.calls := rfl
@[simp] theorem State.setPc_loop (x : Word) (s : State) : (s.setPc x).loop = s.loop := rfl
@[simp] theorem State.setPc_draws (x : Word) (s : State) : (s.setPc x).draws = s.draws := rfl
@[simp] theorem State.setPc_io (x : Word) (s : State) : (s.setPc x).io = s.io := rfl
@[simp] theorem State.setPc_history (x : Word) (s : State) : (s.setPc x).history = s.history := rfl
@[simp] theorem State.setPc_toBlock (x : Word) (s : State) :
    (s.setPc x).toBlock = { s.toBlock with cpu := { s.cpu with pc := x } } := rfl
@[simp] theorem State.setPc_toStepParameters (x : Word) (s : State) :
    (s.setPc x).toStepParameters = s.toStepParameters := rfl

@[simp] theorem State.setP_cpu (x : Flags) (s : State) : (s.setP x).cpu = { s.cpu with p := x } := rfl
@[simp] theorem State.setP_ppu (x : Flags) (s : State) : (s.setP x).ppu = s.ppu := rfl
@[simp] theorem State.setP_nmiPending (x : Flags) (s : State) : (s.setP x).nmiPending = s.nmiPending := rfl
@[simp] theorem State.setP_irqLine (x : Flags) (s : State) : (s.setP x).irqLine = s.irqLine := rfl
@[simp] theorem State.setP_ext (x : Flags) (s : State) : (s.setP x).ext = s.ext := rfl
@[simp] theorem State.setP_ppuBus (x : Flags) (s : State) : (s.setP x).ppuBus = s.ppuBus := rfl
@[simp] theorem State.setP_params (x : Flags) (s : State) : (s.setP x).params = s.params := rfl
@[simp] theorem State.setP_calls (x : Flags) (s : State) : (s.setP x).calls = s.calls := rfl
@[simp] theorem State.setP_loop (x : Flags) (s : State) : (s.setP x).loop = s.loop := rfl
@[simp] theorem State.setP_draws (x : Flags) (s : State) : (s.setP x).draws = s.draws := rfl
@[simp] theorem State.setP_io (x : Flags) (s : State) : (s.setP x).io = s.io := rfl
@[simp] theorem State.setP_history (x : Flags) (s : State) : (s.setP x).history = s.history := rfl
@[simp] theorem State.setP_toBlock (x : Flags) (s : State) :
    (s.setP x).toBlock = { s.toBlock with cpu := { s.cpu with p := x } } := rfl
@[simp] theorem State.setP_toStepParameters (x : Flags) (s : State) :
    (s.setP x).toStepParameters = s.toStepParameters := rfl

@[simp] theorem State.setCycles_cpu (n : Nat) (s : State) : (s.setCycles n).cpu = { s.cpu with cycles := n } := rfl
@[simp] theorem State.setCycles_ppu (n : Nat) (s : State) : (s.setCycles n).ppu = s.ppu := rfl
@[simp] theorem State.setCycles_nmiPending (n : Nat) (s : State) : (s.setCycles n).nmiPending = s.nmiPending := rfl
@[simp] theorem State.setCycles_irqLine (n : Nat) (s : State) : (s.setCycles n).irqLine = s.irqLine := rfl
@[simp] theorem State.setCycles_ext (n : Nat) (s : State) : (s.setCycles n).ext = s.ext := rfl
@[simp] theorem State.setCycles_ppuBus (n : Nat) (s : State) : (s.setCycles n).ppuBus = s.ppuBus := rfl
@[simp] theorem State.setCycles_params (n : Nat) (s : State) : (s.setCycles n).params = s.params := rfl
@[simp] theorem State.setCycles_calls (n : Nat) (s : State) : (s.setCycles n).calls = s.calls := rfl
@[simp] theorem State.setCycles_loop (n : Nat) (s : State) : (s.setCycles n).loop = s.loop := rfl
@[simp] theorem State.setCycles_draws (n : Nat) (s : State) : (s.setCycles n).draws = s.draws := rfl
@[simp] theorem State.setCycles_io (n : Nat) (s : State) : (s.setCycles n).io = s.io := rfl
@[simp] theorem State.setCycles_history (n : Nat) (s : State) : (s.setCycles n).history = s.history := rfl
@[simp] theorem State.setCycles_toBlock (n : Nat) (s : State) :
    (s.setCycles n).toBlock = { s.toBlock with cpu := { s.cpu with cycles := n } } := rfl
@[simp] theorem State.setCycles_toStepParameters (n : Nat) (s : State) :
    (s.setCycles n).toStepParameters = s.toStepParameters := rfl

@[simp] theorem State.mapPpu_cpu (f : Ppu → Ppu) (s : State) : (s.mapPpu f).cpu = s.cpu := rfl
@[simp] theorem State.mapPpu_ppu (f : Ppu → Ppu) (s : State) : (s.mapPpu f).ppu = f s.ppu := rfl
@[simp] theorem State.mapPpu_nmiPending (f : Ppu → Ppu) (s : State) : (s.mapPpu f).nmiPending = s.nmiPending := rfl
@[simp] theorem State.mapPpu_irqLine (f : Ppu → Ppu) (s : State) : (s.mapPpu f).irqLine = s.irqLine := rfl
@[simp] theorem State.mapPpu_ext (f : Ppu → Ppu) (s : State) : (s.mapPpu f).ext = s.ext := rfl
@[simp] theorem State.mapPpu_ppuBus (f : Ppu → Ppu) (s : State) : (s.mapPpu f).ppuBus = s.ppuBus := rfl
@[simp] theorem State.mapPpu_params (f : Ppu → Ppu) (s : State) : (s.mapPpu f).params = s.params := rfl
@[simp] theorem State.mapPpu_calls (f : Ppu → Ppu) (s : State) : (s.mapPpu f).calls = s.calls := rfl
@[simp] theorem State.mapPpu_loop (f : Ppu → Ppu) (s : State) : (s.mapPpu f).loop = s.loop := rfl
@[simp] theorem State.mapPpu_draws (f : Ppu → Ppu) (s : State) : (s.mapPpu f).draws = s.draws := rfl
@[simp] theorem State.mapPpu_io (f : Ppu → Ppu) (s : State) : (s.mapPpu f).io = s.io := rfl
@[simp] theorem State.mapPpu_history (f : Ppu → Ppu) (s : State) : (s.mapPpu f).history = s.history := rfl
@[simp] theorem State.mapPpu_toBlock (f : Ppu → Ppu) (s : State) :
    (s.mapPpu f).toBlock = { s.toBlock with ppu := f s.ppu } := rfl
@[simp] theorem State.mapPpu_toStepParameters (f : Ppu → Ppu) (s : State) :
    (s.mapPpu f).toStepParameters = s.toStepParameters := rfl

/-! Transfers recorded one after another are recorded together. -/

theorem State.record_eq (e : IoEvent) (s : State) : s.record e = s.recordAll [e] := rfl

theorem State.recordAll_recordAll (l m : List IoEvent) (s : State) :
    (s.recordAll l).recordAll m = s.recordAll (l ++ m) := by
  simp [State.recordAll]

@[simp] theorem State.recordAll_nil (s : State) : s.recordAll [] = s := by
  simp [State.recordAll]

end Sys2Proof.Machine
end

