-- ==== Sys2Proof/Laws/Memory.lean ====
section
/-! SUPPORT. Memory as a list of cells: a read after a write, and that a write keeps the canonical form. -/

namespace Sys2Proof.Machine

/-! ## Reading after inserting, erasing and writing -/

theorem cellsFind_insert_same (a : Nat) (d : Byte) (l : List Host.Cell) :
    cellsFind (cellsInsert a d l) a = some d := by
  induction l with
  | nil => simp [cellsInsert, cellsFind]
  | cons c rest ih =>
    obtain ⟨k, e⟩ := c
    unfold cellsInsert
    split
    · simp [cellsFind]
    · split
      · simp [cellsFind]
      · rename_i hne
        simp [cellsFind, ih, Ne.symm hne]

theorem cellsFind_insert_other {a b : Nat} (h : b ≠ a) (d : Byte) (l : List Host.Cell) :
    cellsFind (cellsInsert a d l) b = cellsFind l b := by
  induction l with
  | nil => simp [cellsInsert, cellsFind, Ne.symm h]
  | cons c rest ih =>
    obtain ⟨k, e⟩ := c
    unfold cellsInsert
    split
    · simp [cellsFind, Ne.symm h]
    · split
      · rename_i hk
        simp [cellsFind, Ne.symm h, ← hk]
      · simp [cellsFind, ih]

theorem cellsFind_erase_same (a : Nat) (l : List Host.Cell) : cellsFind (cellsErase a l) a = none := by
  induction l with
  | nil => rfl
  | cons c rest ih =>
    obtain ⟨k, e⟩ := c
    by_cases hk : k = a
    · simpa [cellsErase, hk] using ih
    · have : cellsErase a ((k, e) :: rest) = (k, e) :: cellsErase a rest := by simp [cellsErase, hk]
      rw [this]
      simp [cellsFind, hk, ih]

theorem cellsFind_erase_other {a b : Nat} (h : b ≠ a) (l : List Host.Cell) :
    cellsFind (cellsErase a l) b = cellsFind l b := by
  induction l with
  | nil => rfl
  | cons c rest ih =>
    obtain ⟨k, e⟩ := c
    by_cases hk : k = a
    · have : cellsErase a ((k, e) :: rest) = cellsErase a rest := by simp [cellsErase, hk]
      rw [this, ih]
      simp [cellsFind, hk, Ne.symm h]
    · have : cellsErase a ((k, e) :: rest) = (k, e) :: cellsErase a rest := by simp [cellsErase, hk]
      rw [this]
      simp [cellsFind, ih]

theorem cellsRead_write_same (a : Nat) (d : Byte) (l : List Host.Cell) :
    (cellsFind (cellsWrite a d l) a).getD unlistedByte = d := by
  unfold cellsWrite
  split
  · rename_i h
    simp [cellsFind_erase_same, h]
  · simp [cellsFind_insert_same]

theorem cellsRead_write_other {a b : Nat} (h : b ≠ a) (d : Byte) (l : List Host.Cell) :
    cellsFind (cellsWrite a d l) b = cellsFind l b := by
  unfold cellsWrite
  split
  · exact cellsFind_erase_other h l
  · exact cellsFind_insert_other h d l

/-! ## The canonical form -/

theorem mem_cellsInsert {a : Nat} {d : Byte} {l : List Host.Cell} {c : Host.Cell}
    (h : c ∈ cellsInsert a d l) : c = (a, d) ∨ c ∈ l := by
  induction l with
  | nil => simpa [cellsInsert] using h
  | cons e rest ih =>
    obtain ⟨k, x⟩ := e
    unfold cellsInsert at h
    split at h
    · simpa using h
    · split at h
      · rcases List.mem_cons.1 h with h | h
        · exact .inl h
        · exact .inr (List.mem_cons_of_mem _ h)
      · rcases List.mem_cons.1 h with h | h
        · exact .inr (by simp [h])
        · exact (ih h).imp id (List.mem_cons_of_mem _)

theorem cellsInsert_sorted {a : Nat} {d : Byte} {l : List Host.Cell}
    (h : l.Pairwise (fun c e => c.1 < e.1)) : (cellsInsert a d l).Pairwise (fun c e => c.1 < e.1) := by
  induction l with
  | nil => simp [cellsInsert]
  | cons e rest ih =>
    obtain ⟨k, x⟩ := e
    have hk := List.pairwise_cons.1 h
    unfold cellsInsert
    split
    · rename_i hlt
      refine List.pairwise_cons.2 ⟨?_, h⟩
      intro c hc
      rcases List.mem_cons.1 hc with rfl | hc
      · exact hlt
      · exact Nat.lt_trans hlt (hk.1 c hc)
    · split
      · rename_i heq
        exact List.pairwise_cons.2 ⟨fun c hc => heq ▸ hk.1 c hc, hk.2⟩
      · rename_i hlt hne
        refine List.pairwise_cons.2 ⟨?_, ih hk.2⟩
        intro c hc
        rcases mem_cellsInsert hc with rfl | hc
        · change k < a
          omega
        · exact hk.1 c hc

/-- Writing a byte at an address in range keeps the canonical form of a memory. -/
theorem cellsWrite_wf {size a : Nat} {d : Byte} {l : List Host.Cell} (h : Memory.wf size l) (ha : a < size) :
    Memory.wf size (cellsWrite a d l) := by
  unfold cellsWrite
  split
  · exact ⟨h.1.filter _, fun c hc => h.2 c (List.mem_of_mem_filter hc)⟩
  · rename_i hd
    refine ⟨cellsInsert_sorted h.1, fun c hc => ?_⟩
    rcases mem_cellsInsert hc with rfl | hc
    · exact ⟨ha, hd⟩
    · exact h.2 c hc

/-- Writing a byte of OAM keeps its written bytes sorted and in range. -/
theorem oamStore_wf {o : Oam} (h : o.wf) (index d : Byte) : (oamStore o index d).wf := by
  refine ⟨cellsInsert_sorted h.1, fun c hc => ?_⟩
  rcases mem_cellsInsert hc with rfl | hc
  · exact index.isLt
  · exact h.2 c hc

/-! ## A bus -/

@[simp] theorem Bus.store_regions (b : Bus) (a : Nat) (d : Byte) : (b.store a d).regions = b.regions := by
  unfold Bus.store
  split <;> rfl

@[simp] theorem Bus.kindAt_store (b : Bus) (a : Nat) (d : Byte) (k : Nat) :
    (b.store a d).kindAt k = b.kindAt k := by
  simp [Bus.kindAt]

theorem Bus.peek_store_same {b : Bus} {a : Nat} (h : b.kindAt a = .ram) (d : Byte) : (b.store a d).peek a = d := by
  simp only [Bus.store, h, Bus.peek]
  exact cellsRead_write_same a d b.cells

theorem Bus.peek_store_other {b : Bus} {a k : Nat} (h : k ≠ a) (d : Byte) : (b.store a d).peek k = b.peek k := by
  unfold Bus.store
  split
  · simp [Bus.peek, cellsRead_write_other h]
  · rfl
  · rfl

theorem Bus.store_not_ram {b : Bus} {a : Nat} (h : b.kindAt a ≠ .ram) (d : Byte) : b.store a d = b := by
  unfold Bus.store
  split
  · rename_i hr
    exact absurd hr h
  · rfl
  · rfl

/-- A store keeps the canonical form of a bus's memory. -/
theorem Bus.store_wf {size a : Nat} {b : Bus} (h : Memory.wf size b.cells) (ha : a < size) (d : Byte) :
    Memory.wf size (b.store a d).cells := by
  unfold Bus.store
  split
  · exact cellsWrite_wf h ha
  · exact h
  · exact h

theorem cellsFind_none_of_lt {l : List Host.Cell} {a : Nat} (h : ∀ c ∈ l, a < c.1) : cellsFind l a = none := by
  induction l with
  | nil => rfl
  | cons c rest ih =>
    obtain ⟨k, d⟩ := c
    have hk : a < k := h (k, d) (by simp)
    simp [cellsFind, Nat.ne_of_gt hk, ih fun c hc => h c (List.mem_cons_of_mem _ hc)]

/-- Two memories in canonical form that read the same at every address are equal data. -/
theorem wf_ext {size : Nat} {l m : List Host.Cell} (hl : Memory.wf size l) (hm : Memory.wf size m)
    (h : ∀ a, (cellsFind l a).getD unlistedByte = (cellsFind m a).getD unlistedByte) : l = m := by
  induction l generalizing m with
  | nil =>
    cases m with
    | nil => rfl
    | cons e m =>
      have := h e.1
      simp only [cellsFind, Option.getD_none, Option.getD_some, if_true] at this
      exact absurd this.symm (hm.2 e (by simp)).2
  | cons c l ih =>
    cases m with
    | nil =>
      have := h c.1
      simp only [cellsFind, Option.getD_none, Option.getD_some, if_true] at this
      exact absurd this (hl.2 c (by simp)).2
    | cons e m =>
      obtain ⟨k, x⟩ := c
      obtain ⟨j, y⟩ := e
      have hl' := List.pairwise_cons.1 hl.1
      have hm' := List.pairwise_cons.1 hm.1
      have hkj : k = j := by
        rcases Nat.lt_trichotomy k j with hlt | heq | hlt
        · have := h k
          rw [cellsFind_none_of_lt (l := (j, y) :: m)] at this
          · simp only [cellsFind, Option.getD_none, Option.getD_some, if_true] at this
            exact absurd this (hl.2 (k, x) (by simp)).2
          · intro c hc
            rcases List.mem_cons.1 hc with rfl | hc
            · exact hlt
            · exact Nat.lt_trans hlt (hm'.1 c hc)
        · exact heq
        · have := h j
          rw [cellsFind_none_of_lt (l := (k, x) :: l)] at this
          · simp only [cellsFind, Option.getD_none, Option.getD_some, if_true] at this
            exact absurd this.symm (hm.2 (j, y) (by simp)).2
          · intro c hc
            rcases List.mem_cons.1 hc with rfl | hc
            · exact hlt
            · exact Nat.lt_trans hlt (hl'.1 c hc)
      subst hkj
      have hxy : x = y := by simpa [cellsFind] using h k
      subst hxy
      congr 1
      refine ih ⟨hl'.2, fun c hc => hl.2 c (List.mem_cons_of_mem _ hc)⟩
        ⟨hm'.2, fun c hc => hm.2 c (List.mem_cons_of_mem _ hc)⟩ fun a => ?_
      by_cases ha : k = a
      · subst ha
        rw [cellsFind_none_of_lt hl'.1, cellsFind_none_of_lt hm'.1]
      · simpa [cellsFind, ha] using h a

/-- The memory after reset, and placing an instruction, keep the canonical form. -/
theorem reset_memory_wf : Memory.wf 0x10000 State.reset.ext.cells ∧ Memory.wf 0x4000 State.reset.ppuBus.cells := by
  decide

theorem placeBytes_wf {b : Bus} (h : Memory.wf 0x10000 b.cells) (pc : Word) (w : Nat) :
    Memory.wf 0x10000 (placeBytes pc w b).cells :=
  cellsWrite_wf (cellsWrite_wf (cellsWrite_wf h pc.isLt) (pc + 1).isLt) (pc + 2).isLt

end Sys2Proof.Machine
end

