-- ==== Sys2Proof/Laws/Bus.lean ====
section
/-! SUPPORT. What the operations of the processor bus, the PPU port and the stack can do, said once each: a read leaves all
but a few fields of the PPU, it stops only when the bus is not ready, and the stack operations in closed form. -/

namespace Sys2Proof.Machine

/-! ## Chaining -/

@[simp] theorem Res.bind_ok {α β : Type} (a : α) (s : State) (k : α → State → Res β) : (Res.ok a s).bind k = k a s := rfl
@[simp] theorem Res.bind_fault {α β : Type} (f : Fault) (k : α → State → Res β) : (Res.fault f).bind k = .fault f := rfl
@[simp] theorem Res.bind_refused {α β : Type} (r : Refusal) (k : α → State → Res β) :
    (Res.refused r).bind k = .refused r := rfl
@[simp] theorem Res.finish_ok (s : State) : (Res.ok () s).finish = .next s := rfl
@[simp] theorem Res.finish_fault (f : Fault) : (Res.fault f).finish = .fault f := rfl
@[simp] theorem Res.finish_refused (r : Refusal) : (Res.refused r).finish = .refused r := rfl
@[simp] theorem complete_ok (s : State) (n : Nat) : complete (.ok () s) n = .next (s.setCycles n) := rfl

/-- An operation answers only by going on from an answer. -/
theorem Res.bind_eq_ok {α β : Type} {r : Res α} {k : α → State → Res β} {b : β} {t : State}
    (h : r.bind k = .ok b t) : ∃ a s, r = .ok a s ∧ k a s = .ok b t := by
  cases r with
  | ok a s => exact ⟨a, s, rfl, h⟩
  | fault f => cases h
  | refused e => cases h

/-- A completed instruction answers the state its operation left, with the cost loaded. -/
theorem complete_eq_next {r : Res Unit} {n : Nat} {t : State} (h : complete r n = .next t) :
    ∃ s, r = .ok () s ∧ t = s.setCycles n := by
  cases r with
  | ok u s =>
    cases u
    exact ⟨s, rfl, by simpa using h.symm⟩
  | fault f => cases h
  | refused e => cases h

/-! ## Reads of the external buses -/

theorem extRead_plain {s : State} {a : Word} (h : s.ext.kindAt a.toNat ≠ .free) :
    extRead a s = s.ext.peek a.toNat := by
  unfold extRead
  split
  · rfl
  · rfl
  · rename_i hf
    exact absurd hf h

theorem extRead_free {s : State} {a : Word} (h : s.ext.kindAt a.toNat = .free) :
    extRead a s = Config.extBusRead s.history a := by
  unfold extRead
  simp [h]

theorem ppuBusRead_plain {s : State} {a : BitVec 14} (h : s.ppuBus.kindAt a.toNat ≠ .free) :
    ppuBusRead a s = (s.ppuBus.peek a.toNat, s.record (.ppuRead a (s.ppuBus.peek a.toNat))) := by
  unfold ppuBusRead ppuBusAnswer
  split
  · rfl
  · rfl
  · rename_i hf
    exact absurd hf h

theorem ppuBusAnswer_free {s : State} {a : BitVec 14} (h : s.ppuBus.kindAt a.toNat = .free) :
    ppuBusAnswer a s = Config.ppuBusRead s.history a := by
  unfold ppuBusAnswer
  simp [h]

/-- A read of PpuBus records one transfer and changes nothing else. -/
theorem ppuBusRead_form (a : BitVec 14) (s : State) : ∃ d, ppuBusRead a s = (d, s.record (.ppuRead a d)) := ⟨_, rfl⟩

/-! ## Frames of reads -/

theorem ReadFrame.refl (s : State) : ReadFrame s s where
  cpu := rfl
  nmiPending := rfl
  irqLine := rfl
  ext := rfl
  ppuBus := rfl
  params := rfl
  calls := rfl
  loop := rfl
  ppu := rfl
  io := ⟨[], by simp [Recorded], fun _ => rfl⟩

theorem ReadFrame.trans {s t u : State} (h : ReadFrame s t) (k : ReadFrame t u) : ReadFrame s u where
  cpu := k.cpu.trans h.cpu
  nmiPending := k.nmiPending.trans h.nmiPending
  irqLine := k.irqLine.trans h.irqLine
  ext := k.ext.trans h.ext
  ppuBus := k.ppuBus.trans h.ppuBus
  params := k.params.trans h.params
  calls := k.calls.trans h.calls
  loop := k.loop.trans h.loop
  ppu := by rw [k.ppu, h.ppu]
  io := by
    obtain ⟨l, hl, hp⟩ := h.io
    obtain ⟨m, hm, kp⟩ := k.io
    refine ⟨l ++ m, ⟨by rw [hm.1, hl.1, List.append_assoc],
      by rw [hm.2, hl.2, List.reverse_append, List.append_assoc]⟩, fun hw => ?_⟩
    rw [kp fun e he => hw e (List.mem_append_right l he), hp fun e he => hw e (List.mem_append_left m he)]

/-- A machine with a ready bus keeps it ready through reads. -/
theorem BusReady.of_readFrame {s t : State} (h : BusReady s) (f : ReadFrame s t) : BusReady t := by
  unfold BusReady
  rw [f.ppu, f.params]
  exact h

theorem updateNmi_ppu (s : State) :
    (updateNmi s).ppu = { s.ppu with nmiOutputPrev := s.ppu.vblank && s.ppu.ctrl.getLsbD 7 } := rfl

/-- A DATA read moves `v` and the buffer, and makes transfers on the PPU bus only. -/
theorem readData_form (s : State) : ∃ d b events, readData s = .ok d { s.recordAll events with
    ppu := { s.ppu with
      readBuffer := b
      v := s.ppu.v + (if s.ppu.ctrl.getLsbD 2 then 32 else 1) } } := by
  obtain ⟨d, hq⟩ := ppuBusRead_form (dataPortAddress s.ppu) s
  unfold readData
  split
  · exact ⟨s.ppu.readBuffer, d, [.ppuRead (dataPortAddress s.ppu) d], by
      simp only [readDataBuffered, hq, incrementDataPort]; rfl⟩
  · unfold readDataPalette
    split
    · rw [hq]
      obtain ⟨e, hu⟩ := ppuBusRead_form (dataPortAddress s.ppu &&& 0x2FFF) (s.record (.ppuRead (dataPortAddress s.ppu) d))
      exact ⟨d, e, [.ppuRead (dataPortAddress s.ppu) d, .ppuRead (dataPortAddress s.ppu &&& 0x2FFF) e], by
        simp only [hu, incrementDataPort]
        simp⟩
    · exact ⟨d, s.ppu.readBuffer, [.ppuRead (dataPortAddress s.ppu) d], by
        simp only [hq, incrementDataPort]; rfl⟩

/-- A register read that answers changes at most five fields of the PPU, uses draws and makes transfers. -/
theorem portRead_form {i : Nat} {s t : State} {d : Byte} (h : portRead i s = .ok d t) :
    ∃ vblank w v prev buffer n events, t = { s.recordAll events with
      ppu := { s.ppu with vblank := vblank, w := w, v := v, nmiOutputPrev := prev, readBuffer := buffer }
      draws := n } := by
  unfold portRead at h
  split at h
  · cases h
  split at h
  · cases h
  split at h
  · unfold readStatus at h
    split at h
    · cases h
    · injection h with _ ht
      refine ⟨false, false, s.ppu.v, false, s.ppu.readBuffer, s.draws + 1, [], ?_⟩
      rw [← ht]
      simp [updateNmi, State.nextDraw]
  · injection h with _ ht
    exact ⟨s.ppu.vblank, s.ppu.w, s.ppu.v, s.ppu.nmiOutputPrev, s.ppu.readBuffer, s.draws, [], by simp [← ht]⟩
  · obtain ⟨d', b, events, hd⟩ := readData_form s
    rw [hd] at h
    injection h with _ ht
    exact ⟨s.ppu.vblank, s.ppu.w, _, s.ppu.nmiOutputPrev, b, s.draws, events, ht.symm⟩
  · injection h with _ ht
    exact ⟨s.ppu.vblank, s.ppu.w, s.ppu.v, s.ppu.nmiOutputPrev, s.ppu.readBuffer, s.draws + 1, [], by
      simp [← ht, State.nextDraw]⟩

/-- A read of the processor bus that answers leaves what `ReadFrame` says. -/
theorem memRead_frame {a : Word} {s t : State} {d : Byte} (h : memRead a s = .ok d t) : ReadFrame s t := by
  unfold memRead at h
  split at h
  · rename_i hw
    obtain ⟨d', u, hp, hk⟩ := Res.bind_eq_ok h
    injection hk with _ ht
    obtain ⟨vb, w, v, pr, rb, n, events, hu⟩ := portRead_form hp
    subst hu ht
    exact ⟨rfl, rfl, rfl, rfl, rfl, rfl, rfl, rfl, rfl, ⟨events ++ [.cpuRead a d'], by simp [Recorded],
      fun hn => by
        have := hn (.cpuRead a d') (by simp)
        rw [IoEvent.inWindow, hw] at this
        cases this⟩⟩
  · injection h with _ ht
    subst ht
    exact ⟨rfl, rfl, rfl, rfl, rfl, rfl, rfl, rfl, rfl, ⟨[.cpuRead a (extRead a s)], ⟨rfl, rfl⟩, fun _ => rfl⟩⟩

/-! ## When the bus answers -/

theorem windowIndex_lt (a : Word) : windowIndex a < 8 := by
  unfold windowIndex
  rw [BitVec.toNat_and]
  exact Nat.lt_of_le_of_lt Nat.and_le_right (by decide)

theorem windowIndex_eq (a : Word) : windowIndex a = a.toNat % 8 := by
  unfold windowIndex
  rw [BitVec.toNat_and]
  exact Nat.and_two_pow_sub_one_eq_mod a.toNat 3

/-- A port read of an index in range answers when the bus is ready. -/
theorem portRead_ready {s : State} (h : BusReady s) {i : Nat} (hi : i < 8) : ∃ d t, portRead i s = .ok d t := by
  unfold portRead
  simp only [h.1, if_neg (show ¬7 < i by omega)]
  split
  · simp at *
  · split
    · unfold readStatus
      rw [if_neg h.2]
      exact ⟨_, _, rfl⟩
    · exact ⟨_, _, rfl⟩
    · exact ⟨_, _, rfl⟩
    · exact ⟨_, _, rfl⟩

/-- A port write of an index in range answers once the PPU was reset. -/
theorem portWrite_ready {s : State} (h : s.ppu.resetDone = true) {i : Nat} (hi : i < 8) (d : Byte) :
    ∃ t, portWrite i d s = .ok () t := by
  unfold portWrite
  simp only [h, if_neg (show ¬7 < i by omega)]
  split
  · simp at *
  · split <;> exact ⟨_, rfl⟩

theorem memRead_ready {s : State} (h : BusReady s) (a : Word) : ∃ d t, memRead a s = .ok d t := by
  unfold memRead
  split
  · obtain ⟨d, t, hp⟩ := portRead_ready h (windowIndex_lt a)
    rw [hp]
    exact ⟨_, _, rfl⟩
  · exact ⟨_, _, rfl⟩

theorem memWrite_ready {s : State} (h : s.ppu.resetDone = true) (a : Word) (d : Byte) :
    ∃ t, memWrite a d s = .ok () t := by
  unfold memWrite
  split
  · obtain ⟨t, hp⟩ := portWrite_ready h (windowIndex_lt a) d
    rw [hp]
    exact ⟨_, rfl⟩
  · exact ⟨_, rfl⟩

/-- Outside the window a read always answers. -/
theorem memRead_outside {a : Word} (h : inWindow a = false) (s : State) :
    memRead a s = .ok (extRead a s) (s.record (.cpuRead a (extRead a s))) := by
  simp [memRead, h]

/-- Outside the window a write always answers. -/
theorem memWrite_outside {a : Word} (h : inWindow a = false) (d : Byte) (s : State) :
    memWrite a d s = .ok () { s.record (.cpuWrite a d) with ext := s.ext.store a.toNat d } := by
  simp [memWrite, h, extWrite, State.record]

/-- A read of a plain address answers the byte held there and records the transfer. -/
theorem memRead_plain {s : State} {a : Word} (h : Plain s a) :
    memRead a s = .ok (s.ext.peek a.toNat) (s.record (.cpuRead a (s.ext.peek a.toNat))) := by
  rw [memRead_outside h.1, extRead_plain h.2]

/-- Where nothing is assumed of ExtBus, a read answers by the address and the history, which a write before it has joined:
no write is without effect on later answers (R63). -/
theorem memRead_free {s : State} {a : Word} (hw : inWindow a = false) (h : s.ext.kindAt a.toNat = .free) :
    memRead a s = .ok (Config.extBusRead s.history a) (s.record (.cpuRead a (Config.extBusRead s.history a))) := by
  rw [memRead_outside hw, extRead_free h]

/-! ## The machine at reset -/

/-- Both resets, CPU then PPU, take the machine at creation to `State.reset` but for the list of their transfers (R260, R262,
R264). -/
theorem reset_from_powerOn : ∃ s, cpuReset State.powerOn = .ok () s ∧ { ppuReset s with io := [] } = State.reset :=
  ⟨_, rfl, rfl⟩

/-! ## Bytes and words -/

theorem inWindow_iff (a : Word) : inWindow a = true ↔ 0x2000 ≤ a.toNat ∧ a.toNat ≤ 0x3FFF := by
  simp [inWindow, BitVec.le_def]

@[simp] theorem highByte_word16 (hi lo : Byte) : highByte (word16 hi lo) = hi := by
  apply BitVec.eq_of_getLsbD_eq
  intro i h
  simp only [highByte, word16, BitVec.getLsbD_extractLsb', BitVec.getLsbD_append]
  simp [h]

@[simp] theorem lowByte_word16 (hi lo : Byte) : lowByte (word16 hi lo) = lo := by
  apply BitVec.eq_of_getLsbD_eq
  intro i h
  simp only [lowByte, word16, BitVec.getLsbD_extractLsb', BitVec.getLsbD_append]
  simp [h]

@[simp] theorem word16_bytes (w : Word) : word16 (highByte w) (lowByte w) = w := by
  apply BitVec.eq_of_getLsbD_eq
  intro i hi
  simp only [word16, highByte, lowByte, BitVec.getLsbD_append, BitVec.getLsbD_extractLsb']
  by_cases h : i < 8
  · simp [h]
  · have : i - 8 < 8 := by omega
    simp [h, this, show 8 + (i - 8) = i by omega]

theorem word16_toNat (hi lo : Byte) : (word16 hi lo).toNat = 256 * hi.toNat + lo.toNat := by
  simp only [word16, BitVec.toNat_append]
  rw [← Nat.shiftLeft_add_eq_or_of_lt lo.isLt, Nat.shiftLeft_eq]
  omega

theorem zeroPageAddress_outside (zz : Byte) : inWindow (zeroPageAddress zz) = false := by
  have : ¬ inWindow (zeroPageAddress zz) = true := by
    rw [inWindow_iff]
    have : (zeroPageAddress zz).toNat = zz.toNat := by simp [zeroPageAddress]; omega
    have := zz.isLt
    omega
  simpa using this

/-! ## The stack -/

/-- `0x0100 | SP` is the byte SP of page 1 (R22). -/
theorem stackAddress_eq (sp : Byte) : stackAddress sp = word16 0x01 sp := by
  apply BitVec.eq_of_getLsbD_eq
  intro i hi
  simp only [stackAddress, word16, BitVec.getLsbD_or, BitVec.getLsbD_append, BitVec.getLsbD_setWidth]
  by_cases h : i < 8
  · have : (BitVec.getLsbD (0x0100 : Word) i) = false := by
      interval_cases i <;> rfl
    rw [this]
    simp only [h, hi, decide_true, Bool.true_and, Bool.false_or, if_true]
  · have h0 : sp.getLsbD i = false := BitVec.getLsbD_of_ge sp i (by omega)
    have : BitVec.getLsbD (0x0100 : Word) i = BitVec.getLsbD (0x01 : Byte) (i - 8) := by
      interval_cases i <;> rfl
    rw [this, h0]
    simp only [h, Bool.and_false, Bool.or_false, if_false]

theorem stackAddress_outside (sp : Byte) : inWindow (word16 0x01 sp) = false := by
  have : ¬ inWindow (word16 0x01 sp) = true := by
    rw [inWindow_iff, word16_toNat]
    have := sp.isLt
    simp
    omega
  simpa using this

/-- A push never stops: one byte is written at `0x0100 | SP` and SP goes down by one (R106). -/
theorem push_eq (d : Byte) (s : State) :
    push d s = .ok () { s.record (.cpuWrite (word16 0x01 s.cpu.sp) d) with
      cpu := { s.cpu with sp := s.cpu.sp - 1 }
      ext := s.ext.store (word16 0x01 s.cpu.sp).toNat d } := by
  rw [push, stackAddress_eq, memWrite_outside (stackAddress_outside _)]
  rfl

/-- A pull never stops: SP goes up by one and the byte there is read (R106). -/
theorem pull_eq (s : State) :
    pull s = .ok (extRead (word16 0x01 (s.cpu.sp + 1)) s)
      ((s.setSp (s.cpu.sp + 1)).record
        (.cpuRead (word16 0x01 (s.cpu.sp + 1)) (extRead (word16 0x01 (s.cpu.sp + 1)) s))) := by
  rw [pull, stackAddress_eq, memRead_outside (stackAddress_outside _)]
  rfl

/-- A pull of plain memory answers the byte held there. -/
theorem pull_plain {s : State} (h : s.ext.kindAt (word16 0x01 (s.cpu.sp + 1)).toNat ≠ .free) :
    pull s = .ok (s.ext.peek (word16 0x01 (s.cpu.sp + 1)).toNat)
      ((s.setSp (s.cpu.sp + 1)).record
        (.cpuRead (word16 0x01 (s.cpu.sp + 1)) (s.ext.peek (word16 0x01 (s.cpu.sp + 1)).toNat))) := by
  rw [pull_eq, extRead_plain h]

/-! ## The status byte -/

@[simp] theorem ofPulled_toByte (p : Flags) : Flags.ofPulled p.toByte = { p with b := false } := by
  obtain ⟨n, v, b, d, i, z, c⟩ := p
  cases n <;> cases v <;> cases b <;> cases d <;> cases i <;> cases z <;> cases c <;> rfl

/-- The byte pulled back from any push of P is P with B clear (R145). -/
@[simp] theorem ofPulled_pushed (p : Flags) (b : Bool) : Flags.ofPulled (p.pushed b) = { p with b := false } := by
  obtain ⟨n, v, b', d, i, z, c⟩ := p
  cases b <;> cases n <;> cases v <;> cases b' <;> cases d <;> cases i <;> cases z <;> cases c <;> rfl

/-- Bit 5 of P reads as 1 at all times (R29). -/
@[simp] theorem toByte_unused (p : Flags) : p.toByte.getLsbD 5 = true := by
  obtain ⟨n, v, b, d, i, z, c⟩ := p
  cases n <;> cases v <;> cases b <;> cases d <;> cases i <;> cases z <;> cases c <;> rfl

end Sys2Proof.Machine
end

