-- ==== Sys2Proof/Laws/Decode.lean ====
section
/-! SUPPORT. The decoder's table and the encoder agree: what the entry of an instruction's opcode builds, and what opcode an
entry's instructions have. -/

namespace Sys2Proof

/-- What an entry of the table says of an instruction: its operand bytes are as many as the entry takes, and the entry
builds it from them. -/
def Entry.Builds (e : Entry) (i : Instr) : Prop :=
  match e with
  | .one j => i.operandBytes = [] ∧ j = i
  | .two f => ∃ b, i.operandBytes = [b] ∧ f b = i
  | .three f => ∃ lo hi, i.operandBytes = [lo, hi] ∧ f (word16 hi lo) = i

/-- The entry of an instruction's opcode builds it. -/
theorem lookup_opcode (i : Instr) : ∃ e, lookup i.opcode = some e ∧ e.Builds i := by
  cases i <;> simp only [Instr.opcode] <;> refine ⟨_, rfl, ?_⟩ <;> simp [Entry.Builds, Instr.operandBytes]

/-- Two instructions have the same addressing mode and cost (R91). -/
structure SameRow (i j : Instr) : Prop where
  mode : i.mode = j.mode
  baseCycles : i.baseCycles = j.baseCycles
  pageExtra : i.pageExtra = j.pageExtra

/-- What an entry builds has this opcode, the operand bytes it was built from, and a row that does not depend on them. -/
def Entry.Encodes (e : Entry) (op : Byte) : Prop :=
  match e with
  | .one i => i.opcode = op ∧ i.operandBytes = []
  | .two f => ∀ b, (f b).opcode = op ∧ (f b).operandBytes = [b] ∧ SameRow (f b) (f 0)
  | .three f => ∀ lo hi, (f (word16 hi lo)).opcode = op ∧ (f (word16 hi lo)).operandBytes = [lo, hi] ∧
    SameRow (f (word16 hi lo)) (f 0)

/-- The entry of an opcode builds instructions of that opcode. -/
theorem lookup_encodes {op : Byte} {e : Entry} (h : lookup op = some e) : e.Encodes op := by
  have key (o : Byte) (h1 : op.toNat / 16 = o.toNat / 16) (h2 : op.toNat % 16 = o.toNat % 16) : o = op :=
    BitVec.eq_of_toNat_eq (by omega)
  have hop := op.isLt
  unfold lookup mapLine at h
  split at h
  case h_17 => cases h
  all_goals
    rename_i hl
    simp only [mapLine0, mapLine1, mapLine2, mapLine3, mapLine4, mapLine5, mapLine6, mapLine7, mapLine8, mapLine9,
      mapLineA, mapLineB, mapLineC, mapLineD, mapLineE, mapLineF] at h
    split at h
  all_goals
    rename_i hc
    cases h <;>
      first
      | refine ⟨?_, rfl⟩
      | refine fun b => ⟨?_, rfl, rfl, rfl, rfl⟩
      | refine fun lo hi => ⟨?_, by simp [Instr.operandBytes], rfl, rfl, rfl⟩
  all_goals
    simp only [Instr.opcode]
    exact key _ (by simp; omega) (by simp; omega)

/-- The opcodes without an entry are the undefined ones (R93). -/
theorem lookup_isNone_all : ∀ k < 256, (lookup (BitVec.ofNat 8 k)).isNone = decide (BitVec.ofNat 8 k ∈ undefinedOpcodes) := by
  decide +kernel

theorem lookup_none_iff (op : Byte) : lookup op = none ↔ op ∈ undefinedOpcodes := by
  have h := lookup_isNone_all op.toNat op.isLt
  rw [BitVec.ofNat_toNat, BitVec.setWidth_eq] at h
  rw [← Option.isNone_iff_eq_none, h, decide_eq_true_iff]

end Sys2Proof
end

