-- ==== Sys2Proof/Laws/Operands.lean ====
section
/-! SUPPORT. What the operand forms, a store, an interrupt entry and a return can do, said once each. -/

namespace Sys2Proof.Machine

/-! ## Effective addresses and operands -/

/-- A zero-page pointer is always read: two reads of page 0 (R126, R127). -/
theorem readPointer_ok (p : Byte) (s : State) : ∃ w t, readPointer p s = .ok w t ∧ ReadFrame s t := by
  obtain ⟨lo, s1, h1⟩ : ∃ lo s1, memRead (zeroPageAddress p) s = .ok lo s1 :=
    ⟨_, _, memRead_outside (zeroPageAddress_outside p) s⟩
  obtain ⟨hi, s2, h2⟩ : ∃ hi s2, memRead (zeroPageAddress (p + 1)) s1 = .ok hi s2 :=
    ⟨_, _, memRead_outside (zeroPageAddress_outside (p + 1)) s1⟩
  exact ⟨word16 hi lo, s2, by rw [readPointer, h1, Res.bind_ok, h2, Res.bind_ok],
    (memRead_frame h1).trans (memRead_frame h2)⟩

/-- An effective address is always found, and finding it only reads. -/
theorem effective_ok (m : MemOperand) (s : State) : ∃ q t, effective m s = .ok q t ∧ ReadFrame s t := by
  cases m with
  | zeroPage zz => exact ⟨_, _, rfl, .refl s⟩
  | zeroPageX zz => exact ⟨_, _, rfl, .refl s⟩
  | zeroPageY zz => exact ⟨_, _, rfl, .refl s⟩
  | absolute a => exact ⟨_, _, rfl, .refl s⟩
  | absoluteX a => exact ⟨_, _, rfl, .refl s⟩
  | absoluteY a => exact ⟨_, _, rfl, .refl s⟩
  | indexedIndirect zz =>
    obtain ⟨w, t, h, f⟩ := readPointer_ok (zz + s.cpu.x) s
    exact ⟨_, t, by rw [effective, h, Res.bind_ok], f⟩
  | indirectIndexed zz =>
    obtain ⟨w, t, h, f⟩ := readPointer_ok zz s
    exact ⟨_, t, by rw [effective, h, Res.bind_ok], f⟩

/-- On a ready bus the operand at an effective address is read, and nothing but reads is done. -/
theorem operandRead_ready {s : State} (h : BusReady s) (m : MemOperand) :
    ∃ q s1 d t, effective m s = .ok q s1 ∧ ReadFrame s s1 ∧ memRead q.1 s1 = .ok d t ∧ ReadFrame s t := by
  obtain ⟨q, s1, he, f1⟩ := effective_ok m s
  obtain ⟨d, t, hr⟩ := memRead_ready (h.of_readFrame f1) q.1
  exact ⟨q, s1, d, t, he, f1, hr, f1.trans (memRead_frame hr)⟩

/-- On a ready bus the operand of a read instruction is read, and nothing but reads is done. -/
theorem readOperand_ready {s : State} (h : BusReady s) (src : Source) :
    ∃ q t, readOperand src s = .ok q t ∧ ReadFrame s t := by
  cases src with
  | immediate b => exact ⟨_, _, rfl, .refl s⟩
  | memory m =>
    obtain ⟨q, s1, d, t, he, _, hr, f⟩ := operandRead_ready h m
    exact ⟨_, t, by rw [readOperand, he, Res.bind_ok, hr, Res.bind_ok], f⟩

/-! ## A store -/

/-- A register write that answers leaves the CPU, ExtBus, the inputs and the schedule. -/
theorem portWrite_frame {i : Nat} {d : Byte} {s t : State} (h : portWrite i d s = .ok () t) :
    t.cpu = s.cpu ∧ t.ext = s.ext ∧ SameHost s t := by
  unfold portWrite at h
  split at h
  · cases h
  split at h
  · cases h
  split at h <;> (injection h with _ ht; subst ht)
  · exact ⟨rfl, rfl, rfl, rfl, rfl, rfl⟩
  · exact ⟨rfl, rfl, rfl, rfl, rfl, rfl⟩
  · exact ⟨rfl, rfl, rfl, rfl, rfl, rfl⟩
  · exact ⟨rfl, rfl, rfl, rfl, rfl, rfl⟩
  · unfold writeScroll
    split <;> exact ⟨rfl, rfl, rfl, rfl, rfl, rfl⟩
  · unfold writeAddr
    split <;> exact ⟨rfl, rfl, rfl, rfl, rfl, rfl⟩
  · exact ⟨rfl, rfl, rfl, rfl, rfl, rfl⟩
  · exact ⟨rfl, rfl, rfl, rfl, rfl, rfl⟩

/-- One byte stored on ExtBus. -/
theorem writesBytes_store {s t : State} {a : Word} {d : Byte} (h : t.ext = s.ext.store a.toNat d) :
    WritesBytes s t [(a, d)] where
  elsewhere k hk := by
    rw [h, Bus.peek_store_other fun hka => hk (a, d) (by simp) hka.symm]
  stored e he hr := by
    obtain rfl := List.mem_singleton.1 he
    rw [h, Bus.peek_store_same hr]
  notRam k hk := by
    by_cases hka : k = a.toNat
    · subst hka
      rw [h, Bus.store_not_ram hk]
    · rw [h, Bus.peek_store_other hka]
  regions := by rw [h, Bus.store_regions]

theorem writesBytes_nil {s t : State} (h : t.ext = s.ext) : WritesBytes s t [] where
  elsewhere k _ := by rw [h]
  stored e he := absurd he (by simp)
  notRam k _ := by rw [h]
  regions := by rw [h]

/-- A write of the processor bus that answers keeps the CPU and has the effect of a store. -/
theorem memWrite_effect {a : Word} {d : Byte} {s t : State} (h : memWrite a d s = .ok () t) :
    t.cpu = s.cpu ∧ StoreEffect a d s t := by
  by_cases hw : inWindow a = true
  · simp only [memWrite, hw, if_true] at h
    obtain ⟨_, u, hp, hk⟩ := Res.bind_eq_ok h
    injection hk with _ ht
    subst ht
    obtain ⟨hc, he, hh⟩ := portWrite_frame hp
    refine ⟨hc, ⟨hh.irqLine, hh.params, hh.calls, hh.loop⟩, ?_, fun hn => absurd hw (by simp [hn]), fun _ => ?_⟩
    · simp only [hw, if_true]
      exact writesBytes_nil he
    · exact ⟨u, by rw [← windowIndex_eq]; exact hp, rfl, rfl, rfl, rfl, rfl, rfl⟩
  · have hn : inWindow a = false := by simpa using hw
    rw [memWrite_outside hn] at h
    injection h with _ ht
    subst ht
    refine ⟨rfl, ⟨rfl, rfl, rfl, rfl⟩, ?_, fun _ => ⟨rfl, rfl, rfl, rfl, rfl, rfl⟩, fun hw' => absurd hw' hw⟩
    simp only [hn, if_false, Bool.false_eq_true]
    exact writesBytes_store rfl

/-! ## Entries and returns -/

theorem page1_ne {p q : Byte} (h : p ≠ q) : (word16 0x01 p).toNat ≠ (word16 0x01 q).toNat := by
  intro hpq
  rw [word16_toNat, word16_toNat] at hpq
  exact h (BitVec.eq_of_toNat_eq (by omega))

/-- Two pushes in closed form: the high byte, then the low byte (R107). -/
theorem push16_eq (w : Word) (s : State) :
    push16 w s = .ok () { s.recordAll [.cpuWrite (word16 0x01 s.cpu.sp) (highByte w),
        .cpuWrite (word16 0x01 (s.cpu.sp - 1)) (lowByte w)] with
      cpu := { s.cpu with sp := s.cpu.sp - 1 - 1 }
      ext := (s.ext.store (word16 0x01 s.cpu.sp).toNat (highByte w)).store
        (word16 0x01 (s.cpu.sp - 1)).toNat (lowByte w) } := by
  rw [push16, push_eq, Res.bind_ok, push_eq]
  simp [State.record, State.recordAll]

theorem sub_ne_self (p : Byte) : p - 1 ≠ p ∧ p - 1 - 1 ≠ p ∧ p - 1 - 1 ≠ p - 1 := by
  refine ⟨?_, ?_, ?_⟩ <;> intro h <;> bv_omega

/-- Three bytes stored below one another on the stack page. -/
theorem writesBytes_store3 {s t : State} {p : Byte} {x y z : Byte}
    (h : t.ext = ((s.ext.store (word16 0x01 p).toNat x).store (word16 0x01 (p - 1)).toNat y).store
      (word16 0x01 (p - 1 - 1)).toNat z) :
    WritesBytes s t [(word16 0x01 p, x), (word16 0x01 (p - 1), y), (word16 0x01 (p - 1 - 1), z)] := by
  obtain ⟨n1, n2, n3⟩ := sub_ne_self p
  have q1 := page1_ne n1
  have q2 := page1_ne n2
  have q3 := page1_ne n3
  refine ⟨fun k hk => ?_, fun e he hr => ?_, fun k hk => ?_, by rw [h]; simp⟩
  · have k1 := hk _ (by simp : (word16 0x01 p, x) ∈ _)
    have k2 := hk _ (by simp : (word16 0x01 (p - 1), y) ∈ _)
    have k3 := hk _ (by simp : (word16 0x01 (p - 1 - 1), z) ∈ _)
    rw [h, Bus.peek_store_other (Ne.symm k3), Bus.peek_store_other (Ne.symm k2), Bus.peek_store_other (Ne.symm k1)]
  · simp only [List.mem_cons, List.not_mem_nil, or_false] at he
    rcases he with rfl | rfl | rfl
    · rw [h, Bus.peek_store_other (Ne.symm q2), Bus.peek_store_other (Ne.symm q1), Bus.peek_store_same hr]
    · rw [h, Bus.peek_store_other (Ne.symm q3), Bus.peek_store_same (by simpa using hr)]
    · rw [h, Bus.peek_store_same (by simpa using hr)]
  · have step (b : Bus) (hb : b.kindAt k ≠ .ram) (a : Nat) (d : Byte) : (b.store a d).peek k = b.peek k := by
      by_cases hka : k = a
      · subst hka
        rw [Bus.store_not_ram hb]
      · rw [Bus.peek_store_other hka]
    rw [h, step _ (by simpa using hk), step _ (by simpa using hk), step _ hk]

/-- The status byte an entry pushes (R247). -/
theorem pushed_eq (p : Flags) (b : Bool) :
    Flags.pushed { p with b := b } b = (p.toByte &&& 0xEF) ||| (if b then 0x10 else 0x00) ||| 0x20 := by
  obtain ⟨n, v, b', d, i, z, c⟩ := p
  cases b <;> cases n <;> cases v <;> cases b' <;> cases d <;> cases i <;> cases z <;> cases c <;> rfl

theorem page1_ne_vector (p : Byte) {v : Word} (h : 0x0200 ≤ v.toNat) : v.toNat ≠ (word16 0x01 p).toNat := by
  rw [word16_toNat]
  have := p.isLt
  simp
  omega

/-- `Enter(ret, b, vector)` with its cost always completes, for a vector above the stack page and outside the window
(R247). -/
theorem enter_entered (s : State) (ret : Word) (b : Bool) {vector : Word}
    (hv : 0x4000 ≤ vector.toNat) (hv' : 0x4000 ≤ (vector + 1).toNat) :
    ∃ lo hi t, complete (enter ret b vector s) 7 = .next t ∧ Entered s t ret b vector lo hi := by
  have w0 : inWindow vector = false := by
    have : ¬inWindow vector = true := by rw [inWindow_iff]; omega
    simpa using this
  have w1 : inWindow (vector + 1) = false := by
    have : ¬inWindow (vector + 1) = true := by rw [inWindow_iff]; omega
    simpa using this
  rw [enter, push16_eq, Res.bind_ok, push_eq, Res.bind_ok, memRead16, memRead_outside w0, Res.bind_ok,
    memRead_outside w1, Res.bind_ok, Res.bind_ok]
  generalize hs3 : State.setP _ _ = s3
  have hext : s3.ext = ((s.ext.store (word16 0x01 s.cpu.sp).toNat (highByte ret)).store
      (word16 0x01 (s.cpu.sp - 1)).toNat (lowByte ret)).store
      (word16 0x01 (s.cpu.sp - 1 - 1)).toNat (Flags.pushed { s.cpu.p with b := b } b) := by
    rw [← hs3]; rfl
  have hcpu : s3.cpu = { s.cpu with sp := s.cpu.sp - 1 - 1 - 1, p := { s.cpu.p with b := b, i := true } } := by
    rw [← hs3]; rfl
  have hio : Recorded s s3 [.cpuWrite (word16 0x01 s.cpu.sp) (highByte ret),
      .cpuWrite (word16 0x01 (s.cpu.sp - 1)) (lowByte ret),
      .cpuWrite (word16 0x01 (s.cpu.sp - 1 - 1)) (Flags.pushed { s.cpu.p with b := b } b)] := by
    rw [← hs3]; exact ⟨by simp, by simp⟩
  have hrest : SameHost s s3 ∧ s3.ppu = s.ppu ∧ s3.ppuBus = s.ppuBus ∧ s3.nmiPending = s.nmiPending := by
    rw [← hs3]; exact ⟨⟨rfl, rfl, rfl, rfl⟩, rfl, rfl, rfl⟩
  clear hs3
  generalize hlo : extRead vector s3 = lo
  generalize hm : s3.record (.cpuRead vector lo) = m
  have hme : m.ext = s3.ext ∧ m.cpu = s3.cpu ∧ Recorded s3 m [.cpuRead vector lo] ∧ SameHost s3 m ∧
      m.ppu = s3.ppu ∧ m.ppuBus = s3.ppuBus ∧ m.nmiPending = s3.nmiPending := by
    rw [← hm]
    exact ⟨rfl, rfl, ⟨rfl, rfl⟩, ⟨rfl, rfl, rfl, rfl⟩, rfl, rfl, rfl⟩
  generalize hhi : extRead (vector + 1) m = hi
  generalize hk : m.record (.cpuRead (vector + 1) hi) = k
  have hke : k.ext = m.ext ∧ k.cpu = m.cpu ∧ Recorded m k [.cpuRead (vector + 1) hi] ∧ SameHost m k ∧
      k.ppu = m.ppu ∧ k.ppuBus = m.ppuBus ∧ k.nmiPending = m.nmiPending := by
    rw [← hk]
    exact ⟨rfl, rfl, ⟨rfl, rfl⟩, ⟨rfl, rfl, rfl, rfl⟩, rfl, rfl, rfl⟩
  obtain ⟨me, mc, mi, mh, mp, mb, mn⟩ := hme
  obtain ⟨ke, kc, ki, kh, kp, kb, kn⟩ := hke
  obtain ⟨sh, sp, sb, sn⟩ := hrest
  have sub2 : s.cpu.sp - 1 - 1 = s.cpu.sp - 2 := by bv_omega
  have sub3 : s.cpu.sp - 1 - 1 - 1 = s.cpu.sp - 3 := by bv_omega
  have peekv (a : Nat) (ha : 0x0200 ≤ a) : s3.ext.peek a = s.ext.peek a := by
    have ne (p : Byte) : a ≠ (word16 0x01 p).toNat := by
      rw [word16_toNat]
      have := p.isLt
      simp
      omega
    rw [hext, Bus.peek_store_other (ne _), Bus.peek_store_other (ne _), Bus.peek_store_other (ne _)]
  refine ⟨lo, hi, (k.setPc (word16 hi lo)).setCycles 7, rfl, ?_, ?_, ?_, ?_, ?_, ?_, ?_, ?_, ?_⟩
  · simp only [State.setCycles_cpu, State.setPc_cpu, kc, mc, hcpu, sub3]
  · have hx : ((k.setPc (word16 hi lo)).setCycles 7).ext = _ := (ke.trans me).trans hext
    have := writesBytes_store3 hx
    rwa [sub2, pushed_eq] at this
  · intro hf
    rw [← hlo, extRead_plain (by rw [hext]; simpa using hf), peekv _ (by omega)]
  · intro hf
    rw [← hhi, extRead_plain (by rw [me, hext]; simpa using hf), me, peekv _ (by omega)]
  · rw [sub2, pushed_eq] at hio
    exact ⟨by simp [ki.1, mi.1, hio.1], by simp [ki.2, mi.2, hio.2]⟩
  · exact ⟨(kh.irqLine.trans mh.irqLine).trans sh.irqLine, (kh.params.trans mh.params).trans sh.params,
      (kh.calls.trans mh.calls).trans sh.calls, (kh.loop.trans mh.loop).trans sh.loop⟩
  · exact (kp.trans mp).trans sp
  · exact (kb.trans mb).trans sb
  · exact (kn.trans mn).trans sn

end Sys2Proof.Machine
end

