-- ==== Sys2Proof/Laws/Ppu.lean ====
section
/-! SUPPORT. What the register port, the NMI arbiter and the PPU's dot can do, said once each. -/

namespace Sys2Proof.Machine

/-! ## The port and the CPU -/

/-- A register write neither reads nor changes the CPU. -/
theorem portWrite_setCpu (i : Nat) (d : Byte) (c : Cpu) (s : State) :
    portWrite i d (s.setCpu c) = (portWrite i d s).bind fun _ t => .ok () (t.setCpu c) := by
  unfold portWrite
  by_cases hr : s.ppu.resetDone = false
  · simp [hr]
  have hr' : ¬(s.setCpu c).ppu.resetDone = false := hr
  by_cases hi : 7 < i
  · simp [hr, hi]
  rw [if_neg hr', if_neg hi, if_neg hr, if_neg hi]
  split
  · rfl
  · rfl
  · rfl
  · rfl
  · cases hw : s.ppu.w <;> simp [writeScroll, hw, State.setCpu]
  · cases hw : s.ppu.w <;> simp [writeAddr, hw, State.setCpu]
  · rfl
  · rfl

/-- What a register write that answers leaves of the picture core: the position, the pipeline, the read buffer and the
status bits; and but for CTRL the NMI condition; and but for DATA the PPU bus and the transfers (R207). -/
theorem portWrite_keeps {i : Nat} {d : Byte} {s t : State} (h : portWrite i d s = .ok () t) :
    (∃ ctrl mask addr oam w v u x prev, t.ppu = { s.ppu with
      ctrl := ctrl, mask := mask, oamAddr := addr, oam := oam, w := w, v := v, t := u, x := x, nmiOutputPrev := prev }) ∧
    (i ≠ 0 → t.nmiPending = s.nmiPending ∧ t.ppu.nmiOutputPrev = s.ppu.nmiOutputPrev ∧ t.ppu.ctrl = s.ppu.ctrl) ∧
    (i ≠ 7 → t.ppuBus = s.ppuBus ∧ t.io = s.io ∧ t.history = s.history) ∧ t.draws = s.draws ∧ (i ≠ 4 → t.ppu.oam = s.ppu.oam) := by
  unfold portWrite at h
  split at h
  · cases h
  split at h
  · cases h
  split at h <;> (injection h with _ ht; subst ht)
  · exact ⟨⟨_, _, _, _, _, _, _, _, _, rfl⟩, by simp, fun _ => ⟨rfl, rfl, rfl⟩, rfl, fun _ => rfl⟩
  · exact ⟨⟨_, _, _, _, _, _, _, _, _, rfl⟩, fun _ => ⟨rfl, rfl, rfl⟩, fun _ => ⟨rfl, rfl, rfl⟩, rfl, fun _ => rfl⟩
  · exact ⟨⟨_, _, _, _, _, _, _, _, _, rfl⟩, fun _ => ⟨rfl, rfl, rfl⟩, fun _ => ⟨rfl, rfl, rfl⟩, rfl, fun _ => rfl⟩
  · exact ⟨⟨_, _, _, _, _, _, _, _, _, rfl⟩, fun _ => ⟨rfl, rfl, rfl⟩, fun _ => ⟨rfl, rfl, rfl⟩, rfl, by simp⟩
  · unfold writeScroll
    split <;>
      exact ⟨⟨_, _, _, _, _, _, _, _, _, rfl⟩, fun _ => ⟨rfl, rfl, rfl⟩, fun _ => ⟨rfl, rfl, rfl⟩, rfl, fun _ => rfl⟩
  · unfold writeAddr
    split <;>
      exact ⟨⟨_, _, _, _, _, _, _, _, _, rfl⟩, fun _ => ⟨rfl, rfl, rfl⟩, fun _ => ⟨rfl, rfl, rfl⟩, rfl, fun _ => rfl⟩
  · exact ⟨⟨_, _, _, _, _, _, _, _, _, rfl⟩, fun _ => ⟨rfl, rfl, rfl⟩, by simp, rfl, fun _ => rfl⟩
  · exact ⟨⟨_, _, _, _, _, _, _, _, _, rfl⟩, fun _ => ⟨rfl, rfl, rfl⟩, fun _ => ⟨rfl, rfl, rfl⟩, rfl, fun _ => rfl⟩

/-- What a register read that answers changes: at STATUS the vblank bit, the latch and the edge memory, at DATA `v`, the
buffer and the transfers, at every other index nothing but the count of draws (R188, R193, R195, R201). -/
theorem portRead_keeps {i : Nat} {s t : State} {d : Byte} (h : portRead i s = .ok d t) :
    (i = 2 → t = { s with draws := s.draws + 1, ppu := { s.ppu with vblank := false, w := false, nmiOutputPrev := false } }) ∧
    (i = 7 → ∃ buffer events, t = { s.recordAll events with
      ppu := { s.ppu with readBuffer := buffer, v := s.ppu.v + (if s.ppu.ctrl.getLsbD 2 then 32 else 1) } }) ∧
    (i ≠ 2 → i ≠ 7 → ∃ n, t = { s with draws := n }) := by
  unfold portRead at h
  split at h
  · cases h
  split at h
  · cases h
  split at h
  · refine ⟨fun _ => ?_, by simp, by simp⟩
    unfold readStatus at h
    split at h
    · cases h
    · injection h with _ ht
      rw [← ht]
      simp [updateNmi, State.nextDraw]
  · injection h with _ ht
    subst ht
    exact ⟨by simp, by simp, fun _ _ => ⟨_, rfl⟩⟩
  · obtain ⟨d', b, events, hr⟩ := readData_form s
    rw [hr] at h
    injection h with _ ht
    subst ht
    exact ⟨by simp, fun _ => ⟨_, _, rfl⟩, by simp⟩
  · rename_i h2 _ h7
    injection h with _ ht
    subst ht
    exact ⟨fun h => absurd h h2, fun h => absurd h h7, fun _ _ => ⟨_, rfl⟩⟩

/-! ## One dot -/

/-- A rendering fetch makes one read and fills a latch. -/
theorem fetchPhase_form (d : Nat) (s : State) : ∃ nt attr lo hi v events, fetchPhase d s = { s.recordAll events with
    ppu := { s.ppu with bgNextNt := nt, bgNextAt := attr, bgNextLo := lo, bgNextHi := hi, v := v } } := by
  unfold fetchPhase
  split
  · exact ⟨_, _, _, _, _, [_], rfl⟩
  · exact ⟨_, _, _, _, _, [_], rfl⟩
  · exact ⟨_, _, _, _, _, [_], rfl⟩
  · exact ⟨_, _, _, _, _, [_], rfl⟩
  · exact ⟨s.ppu.bgNextNt, s.ppu.bgNextAt, s.ppu.bgNextLo, s.ppu.bgNextHi, incrementX s.ppu.v, [], by
      simp [State.mapPpu]⟩
  · exact ⟨s.ppu.bgNextNt, s.ppu.bgNextAt, s.ppu.bgNextLo, s.ppu.bgNextHi, s.ppu.v, [], by simp⟩

/-- The trailing read leaves all but the transfers. -/
theorem trailingRead_form (d : Nat) (s : State) : ∃ events, trailingRead d s = s.recordAll events := by
  unfold trailingRead
  split
  · exact ⟨[_], rfl⟩
  · exact ⟨[], by simp⟩

/-- The background part of a dot changes the latches, the shift registers and `v`, and reads the PPU bus; it leaves the CPU,
both memories, the port's registers, the status bits, the position and the pending NMI (R224). -/
theorem renderDot_form (s : State) : ∃ nt attr lo hi v pl ph al ah events, renderDot s = { s.recordAll events with
    ppu := { s.ppu with
      bgNextNt := nt, bgNextAt := attr, bgNextLo := lo, bgNextHi := hi, v := v
      shPtLo := pl, shPtHi := ph, shAtLo := al, shAtHi := ah } } := by
  unfold renderDot
  split
  · unfold backgroundDot
    obtain ⟨pl, ph, al, ah, h1⟩ : ∃ pl ph al ah, pipelineDot s.ppu.dot s.ppu =
        { s.ppu with shPtLo := pl, shPtHi := ph, shAtLo := al, shAtHi := ah } := by
      unfold pipelineDot shiftRegisters reloadRegisters
      split <;> split <;> exact ⟨_, _, _, _, rfl⟩
    simp only [State.mapPpu, h1]
    generalize hs1 : ({ s with ppu := { s.ppu with shPtLo := pl, shPtHi := ph, shAtLo := al, shAtHi := ah } } : State) = s1
    obtain ⟨nt, attr, lo, hi, v, events, h2⟩ : ∃ nt attr lo hi v events,
        (if fetchDot s.ppu.dot then fetchPhase s.ppu.dot s1 else s1) = { s1.recordAll events with
          ppu := { s1.ppu with bgNextNt := nt, bgNextAt := attr, bgNextLo := lo, bgNextHi := hi, v := v } } := by
      split
      · exact fetchPhase_form _ _
      · exact ⟨s1.ppu.bgNextNt, s1.ppu.bgNextAt, s1.ppu.bgNextLo, s1.ppu.bgNextHi, s1.ppu.v, [], by simp⟩
    rw [h2]
    subst hs1
    obtain ⟨more, h3⟩ := trailingRead_form s.ppu.dot _
    rw [h3]
    exact ⟨nt, attr, lo, hi, _, pl, ph, al, ah, events ++ more, by simp [scrollDot, State.recordAll]; rfl⟩
  · exact ⟨s.ppu.bgNextNt, s.ppu.bgNextAt, s.ppu.bgNextLo, s.ppu.bgNextHi, s.ppu.v, s.ppu.shPtLo, s.ppu.shPtHi,
      s.ppu.shAtLo, s.ppu.shAtHi, [], by simp⟩

/-- The status events change the status bits, the edge memory, the pending NMI and the count of draws. -/
theorem statusEvents_form (line : Int) (d : Nat) (s : State) : ∃ vb hit ovf prev n pending, statusEvents line d s = { s with
    ppu := { s.ppu with vblank := vb, sprite0Hit := hit, spriteOverflow := ovf, nmiOutputPrev := prev }
    draws := n
    nmiPending := pending } := by
  unfold statusEvents
  split
  · exact ⟨_, _, _, _, _, _, rfl⟩
  · split
    · exact ⟨_, _, _, _, _, _, rfl⟩
    · split
      · unfold spriteDraws
        simp only
        split
        · split <;> exact ⟨_, _, _, _, _, _, rfl⟩
        · split
          · exact ⟨_, _, _, _, _, _, rfl⟩
          · exact ⟨s.ppu.vblank, s.ppu.sprite0Hit, s.ppu.spriteOverflow, s.ppu.nmiOutputPrev, s.draws, s.nmiPending, rfl⟩
      · exact ⟨s.ppu.vblank, s.ppu.sprite0Hit, s.ppu.spriteOverflow, s.ppu.nmiOutputPrev, s.draws, s.nmiPending, rfl⟩

/-- The vblank bit, the edge memory and the pending NMI after the status events of a dot (R233, R234, R243). -/
theorem statusEvents_vblank (line : Int) (d : Nat) (s : State) :
    ((statusEvents line d s).ppu.vblank =
      if line = 241 ∧ d = 1 then true else if line = -1 ∧ d = 1 then false else s.ppu.vblank) ∧
    ((statusEvents line d s).ppu.nmiOutputPrev =
      if line = 241 ∧ d = 1 then s.ppu.ctrl.getLsbD 7 else if line = -1 ∧ d = 1 then false else s.ppu.nmiOutputPrev) ∧
    ((statusEvents line d s).nmiPending =
      if line = 241 ∧ d = 1 then s.nmiPending || (s.ppu.ctrl.getLsbD 7 && !s.ppu.nmiOutputPrev) else s.nmiPending) := by
  unfold statusEvents
  split
  · simp [vblankSet, updateNmi, State.mapPpu]
  · split
    · simp [preRenderClear, updateNmi, State.mapPpu]
    · split
      · unfold spriteDraws
        simp only
        split
        · split <;> exact ⟨rfl, rfl, rfl⟩
        · split <;> exact ⟨rfl, rfl, rfl⟩
      · exact ⟨rfl, rfl, rfl⟩

/-- When a sprite bit becomes set: under `Draw` alone, at a visible dot with the enables its draw needs (R235). -/
theorem statusEvents_sets (line : Int) (d : Nat) (s : State) :
    ((statusEvents line d s).ppu.sprite0Hit = true → s.ppu.sprite0Hit = true ∨ (s.params.spriteStatus = .draw ∧
      0 ≤ line ∧ line ≤ 239 ∧ 1 ≤ d ∧ d ≤ 256 ∧ s.ppu.mask.getLsbD 3 = true ∧ s.ppu.mask.getLsbD 4 = true)) ∧
    ((statusEvents line d s).ppu.spriteOverflow = true → s.ppu.spriteOverflow = true ∨ (s.params.spriteStatus = .draw ∧
      0 ≤ line ∧ line ≤ 239 ∧ (s.ppu.mask.getLsbD 3 = true ∨ s.ppu.mask.getLsbD 4 = true))) := by
  unfold statusEvents
  split
  · exact ⟨.inl, .inl⟩
  · split
    · exact ⟨fun h => (by cases h), fun h => (by cases h)⟩
    · split
      · rename_i hd
        unfold spriteDraws
        simp only
        split
        · rename_i hm
          refine ⟨fun _ => .inr ⟨hd.2.2, hd.1, hd.2.1, hm⟩, fun h => ?_⟩
          exact .inr ⟨hd.2.2, hd.1, hd.2.1, .inl hm.2.2.1⟩
        · split
          · rename_i hr
            exact ⟨.inl, fun _ => .inr ⟨hd.2.2, hd.1, hd.2.1, by simpa [renderingEnabled] using hr⟩⟩
          · exact ⟨.inl, .inl⟩
      · exact ⟨.inl, .inl⟩

/-- The sprite bits after the status events of a dot: cleared at (-1, 1), never cleared elsewhere, and changed nowhere else
but under `Draw` (R234, R235). -/
theorem statusEvents_sprites (line : Int) (d : Nat) (s : State) :
    (line = -1 → d = 1 →
      (statusEvents line d s).ppu.sprite0Hit = false ∧ (statusEvents line d s).ppu.spriteOverflow = false) ∧
    (¬(line = -1 ∧ d = 1) → s.ppu.sprite0Hit = true → (statusEvents line d s).ppu.sprite0Hit = true) ∧
    (¬(line = -1 ∧ d = 1) → s.ppu.spriteOverflow = true → (statusEvents line d s).ppu.spriteOverflow = true) ∧
    (s.params.spriteStatus ≠ .draw → s.ppu.sprite0Hit = false → (statusEvents line d s).ppu.sprite0Hit = false) ∧
    (s.params.spriteStatus ≠ .draw → s.ppu.spriteOverflow = false →
      (statusEvents line d s).ppu.spriteOverflow = false) := by
  unfold statusEvents
  split
  · rename_i h
    refine ⟨fun h1 => ?_, fun _ h => h, fun _ h => h, fun _ h => h, fun _ h => h⟩
    omega
  · split
    · rename_i h
      exact ⟨fun _ _ => ⟨rfl, rfl⟩, fun hn => absurd h hn, fun hn => absurd h hn, fun _ _ => rfl, fun _ _ => rfl⟩
    · rename_i h
      split
      · rename_i hd
        refine ⟨fun h1 h2 => absurd ⟨h1, h2⟩ h, ?_, ?_, fun hn => absurd hd.2.2 hn, fun hn => absurd hd.2.2 hn⟩
        · intro _ hs
          unfold spriteDraws
          simp only
          split
          · split <;> simp [drawSprite0, drawSpriteOverflow, State.mapPpu, hs]
          · split <;> simp [drawSpriteOverflow, State.mapPpu, hs]
        · intro _ hs
          unfold spriteDraws
          simp only
          split
          · split <;> simp [drawSprite0, drawSpriteOverflow, State.mapPpu, hs]
          · split <;> simp [drawSpriteOverflow, State.mapPpu, hs]
      · exact ⟨fun h1 h2 => absurd ⟨h1, h2⟩ h, fun _ h => h, fun _ h => h, fun _ h => h, fun _ h => h⟩

/-- The advance changes the position and nothing else, and keeps it in the frame (R211). -/
theorem advance_form (p : Ppu) : ∃ line d, advance p = { p with scanline := line, dot := d } := by
  unfold advance
  split <;> exact ⟨_, _, rfl⟩

theorem advance_range {p : Ppu} (h : -1 ≤ p.scanline ∧ p.scanline ≤ 260) (hd : p.dot ≤ 340) :
    (-1 ≤ (advance p).scanline ∧ (advance p).scanline ≤ 260) ∧ (advance p).dot ≤ 340 := by
  unfold advance
  split
  · simp only
    split <;> omega
  · simp only
    omega

end Sys2Proof.Machine
end

