-- ==== Sys2Proof/Laws/Exec.lean ====
section
/-! SUPPORT. What an instruction can do outside the CPU, said once: reads and writes of the processor bus. A relation that
those keep is kept by every instruction, every entry and every CPU call. -/

namespace Sys2Proof.Machine

/-- A relation between the state before and the state after that every bus access and every change of the CPU's registers
keeps, and that chains. -/
structure BusRelation (R : State → State → Prop) : Prop where
  refl : ∀ s, R s s
  trans : ∀ {s t u}, R s t → R t u → R s u
  cpu : ∀ (s : State) (c : Cpu), R s (s.setCpu c)
  read : ∀ {a : Word} {d : Byte} {s t : State}, memRead a s = .ok d t → R s t
  write : ∀ {a : Word} {d : Byte} {s t : State}, memWrite a d s = .ok () t → R s t

namespace BusRelation

variable {R : State → State → Prop} (h : BusRelation R)
include h

theorem word {a : Word} {s t : State} {w : Word} (hr : memRead16 a s = .ok w t) : R s t := by
  obtain ⟨lo, s1, h1, hr⟩ := Res.bind_eq_ok hr
  obtain ⟨hi, s2, h2, hr⟩ := Res.bind_eq_ok hr
  cases hr
  exact h.trans (h.read h1) (h.read h2)

theorem pointer {p : Byte} {s t : State} {w : Word} (hr : readPointer p s = .ok w t) : R s t := by
  obtain ⟨lo, s1, h1, hr⟩ := Res.bind_eq_ok hr
  obtain ⟨hi, s2, h2, hr⟩ := Res.bind_eq_ok hr
  cases hr
  exact h.trans (h.read h1) (h.read h2)

theorem address {m : MemOperand} {s t : State} {q : Word × Bool} (hr : effective m s = .ok q t) : R s t := by
  cases m with
  | indexedIndirect zz =>
    obtain ⟨w, s1, h1, hr⟩ := Res.bind_eq_ok hr
    cases hr
    exact h.pointer h1
  | indirectIndexed zz =>
    obtain ⟨w, s1, h1, hr⟩ := Res.bind_eq_ok hr
    cases hr
    exact h.pointer h1
  | _ =>
    cases hr
    exact h.refl s

theorem operand {src : Source} {s t : State} {q : Byte × Bool} (hr : readOperand src s = .ok q t) : R s t := by
  cases src with
  | immediate b =>
    cases hr
    exact h.refl s
  | memory m =>
    obtain ⟨q, s1, h1, hr⟩ := Res.bind_eq_ok hr
    obtain ⟨d, s2, h2, hr⟩ := Res.bind_eq_ok hr
    cases hr
    exact h.trans (h.address h1) (h.read h2)

theorem pushed {d : Byte} {s t : State} (hr : push d s = .ok () t) : R s t := by
  obtain ⟨_, s1, h1, hr⟩ := Res.bind_eq_ok hr
  cases hr
  exact h.trans (h.write h1) (h.cpu s1 _)

theorem pulled {d : Byte} {s t : State} (hr : pull s = .ok d t) : R s t :=
  h.trans (h.cpu s { s.cpu with sp := s.cpu.sp + 1 }) (h.read hr)

theorem pushed16 {w : Word} {s t : State} (hr : push16 w s = .ok () t) : R s t := by
  obtain ⟨_, s1, h1, hr⟩ := Res.bind_eq_ok hr
  exact h.trans (h.pushed h1) (h.pushed hr)

theorem pulled16 {w : Word} {s t : State} (hr : pull16 s = .ok w t) : R s t := by
  obtain ⟨lo, s1, h1, hr⟩ := Res.bind_eq_ok hr
  obtain ⟨hi, s2, h2, hr⟩ := Res.bind_eq_ok hr
  cases hr
  exact h.trans (h.pulled h1) (h.pulled h2)

theorem entered {ret vector : Word} {b : Bool} {s t : State} (hr : enter ret b vector s = .ok () t) : R s t := by
  obtain ⟨_, s1, h1, hr⟩ := Res.bind_eq_ok hr
  obtain ⟨_, s2, h2, hr⟩ := Res.bind_eq_ok hr
  obtain ⟨w, s3, h3, hr⟩ := Res.bind_eq_ok hr
  cases hr
  exact h.trans (h.pushed16 h1) (h.trans (h.cpu s1 _) (h.trans (h.pushed h2) (h.trans (h.cpu s2 _)
    (h.trans (h.word h3) (h.cpu s3 _)))))

theorem left {s t : State} (hr : leave s = .ok () t) : R s t := by
  obtain ⟨r, s1, h1, hr⟩ := Res.bind_eq_ok hr
  obtain ⟨w, s2, h2, hr⟩ := Res.bind_eq_ok hr
  cases hr
  exact h.trans (h.pulled h1) (h.trans (h.cpu s1 _) (h.trans (h.pulled16 h2) (h.cpu s2 _)))

/-- An instruction that ends with its cost loaded keeps the relation when its body does. -/
theorem completed {r : Res Unit} {n : Nat} {s t : State} (hb : ∀ u, r = .ok () u → R s u) (hr : complete r n = .next t) :
    R s t := by
  obtain ⟨u, hu, ht⟩ := complete_eq_next hr
  subst ht
  exact h.trans (hb u hu) (h.cpu u _)

theorem reads {src : Source} {n : Nat} {x : Bool} {act : Byte → Cpu → Cpu} {s t : State}
    (hr : readInstr src n x act s = .next t) : R s t := by
  unfold readInstr at hr
  cases ho : readOperand src s with
  | ok q s1 =>
    rw [ho] at hr
    cases hr
    exact h.trans (h.operand ho) (h.cpu s1 _)
  | fault f => rw [ho] at hr; cases hr
  | refused e => rw [ho] at hr; cases hr

theorem stores {m : MemOperand} {n : Nat} {value : Cpu → Byte} {s t : State}
    (hr : storeInstr m n value s = .next t) : R s t := by
  refine h.completed (fun u hu => ?_) hr
  obtain ⟨q, s1, h1, hu⟩ := Res.bind_eq_ok hu
  exact h.trans (h.address h1) (h.write hu)

theorem modifies {m : MemOperand} {n : Nat} {act : Byte → Flags → Byte × Flags} {s t : State}
    (hr : modifyMemory m n act s = .next t) : R s t := by
  refine h.completed (fun u hu => ?_) hr
  obtain ⟨q, s1, h1, hu⟩ := Res.bind_eq_ok hu
  obtain ⟨d, s2, h2, hu⟩ := Res.bind_eq_ok hu
  exact h.trans (h.address h1) (h.trans (h.read h2) (h.trans (h.cpu s2 _) (h.write hu)))

theorem registers {n : Nat} {act : Cpu → Cpu} {s t : State} (hr : registerInstr n act s = .next t) : R s t := by
  cases hr
  exact h.cpu s _

theorem accumulates {n : Nat} {act : Byte → Flags → Byte × Flags} {s t : State}
    (hr : modifyAccumulator n act s = .next t) : R s t := by
  cases hr
  exact h.cpu s _

theorem branches {n : Nat} {cond : Flags → Bool} {rr : Byte} {s t : State} (hr : branchInstr n cond rr s = .next t) :
    R s t := by
  unfold branchInstr at hr
  split at hr <;> (cases hr; exact h.cpu s _)

/-- Every instruction keeps the relation. -/
theorem exec {i : Instr} {s t : State} (hr : Machine.exec i s = .next t) : R s t := by
  cases i
  case pha => exact h.completed (fun u hu => h.pushed hu) hr
  case php => exact h.completed (fun u hu => h.pushed hu) hr
  case pla =>
    refine h.completed (fun u hu => ?_) hr
    obtain ⟨r, s1, h1, hu⟩ := Res.bind_eq_ok hu
    cases hu
    exact h.trans (h.pulled h1) (h.cpu s1 _)
  case plp =>
    refine h.completed (fun u hu => ?_) hr
    obtain ⟨r, s1, h1, hu⟩ := Res.bind_eq_ok hu
    cases hu
    exact h.trans (h.pulled h1) (h.cpu s1 _)
  case jmpAbs a =>
    cases hr
    exact h.cpu s _
  case jmpInd a =>
    refine h.completed (fun u hu => ?_) hr
    obtain ⟨ea, s1, h1, hu⟩ := Res.bind_eq_ok hu
    cases hu
    obtain ⟨lo, s2, h2, h1⟩ := Res.bind_eq_ok h1
    obtain ⟨hi, s3, h3, h1⟩ := Res.bind_eq_ok h1
    cases h1
    exact h.trans (h.read h2) (h.trans (h.read h3) (h.cpu s1 _))
  case jsr a =>
    refine h.completed (fun u hu => ?_) hr
    obtain ⟨_, s1, h1, hu⟩ := Res.bind_eq_ok hu
    cases hu
    exact h.trans (h.pushed16 h1) (h.cpu s1 _)
  case rts =>
    refine h.completed (fun u hu => ?_) hr
    obtain ⟨w, s1, h1, hu⟩ := Res.bind_eq_ok hu
    cases hu
    exact h.trans (h.pulled16 h1) (h.cpu s1 _)
  case brk => exact h.completed (fun u hu => h.entered hu) hr
  case rti => exact h.completed (fun u hu => h.left hu) hr
  all_goals unfold Machine.exec at hr
  case txs => unfold execTxs at hr; exact h.registers hr
  case clc => unfold execClc at hr; exact h.registers hr
  case sec => unfold execSec at hr; exact h.registers hr
  case cli => unfold execCli at hr; exact h.registers hr
  case sei => unfold execSei at hr; exact h.registers hr
  case cld => unfold execCld at hr; exact h.registers hr
  case sed => unfold execSed at hr; exact h.registers hr
  case clv => unfold execClv at hr; exact h.registers hr
  case bpl rr => unfold execBpl at hr; exact h.branches hr
  case bvc rr => unfold execBvc at hr; exact h.branches hr
  case bcc rr => unfold execBcc at hr; exact h.branches hr
  case bne rr => unfold execBne at hr; exact h.branches hr
  all_goals first
    | exact h.reads hr
    | exact h.stores hr
    | exact h.modifies hr
    | exact h.registers hr
    | exact h.accumulates hr
    | exact h.branches hr

theorem fetchedByte {s t : State} {b : Byte} (hr : fetchByte s = .ok b t) : R s t := by
  obtain ⟨d, s1, h1, hr⟩ := Res.bind_eq_ok hr
  cases hr
  exact h.trans (h.read h1) (h.cpu s1 _)

theorem fetched {s t : State} {i : Instr} (hr : fetchInstr s = .ok i t) : R s t := by
  obtain ⟨op, s1, h1, hr⟩ := Res.bind_eq_ok hr
  have hs := h.trans (h.read h1) (h.cpu s1 { s1.cpu with pc := s1.cpu.pc + 1 })
  split at hr
  · cases hr
  · cases hr
    exact hs
  · obtain ⟨b, s2, h2, hr⟩ := Res.bind_eq_ok hr
    cases hr
    exact h.trans hs (h.fetchedByte h2)
  · obtain ⟨lo, s2, h2, hr⟩ := Res.bind_eq_ok hr
    obtain ⟨hi, s3, h3, hr⟩ := Res.bind_eq_ok hr
    cases hr
    exact h.trans hs (h.trans (h.fetchedByte h2) (h.fetchedByte h3))

/-- Every CPU call keeps the relation, but for the NMI entry's clearing of the pending flag at a boundary. -/
theorem clock {s t : State} (hr : cpuClock s = .next t) :
    (s.cpu.cycles = 0 ∧ s.nmiPending = true ∧ R { s with nmiPending := false } t) ∨ R s t := by
  have tick_keeps {o : Out} {s' : State} (ho : ∀ u, o = .next u → R s' u) (ht : tick o = .next t) : R s' t := by
    cases o with
    | next u =>
      cases ht
      exact h.trans (ho u rfl) (h.cpu u _)
    | fault f => cases ht
    | refused e => cases ht
  unfold cpuClock at hr
  split at hr
  · cases hr
  · split at hr
    · rename_i hc
      unfold beginCall at hr
      split at hr
      · rename_i hn
        exact .inl ⟨hc, hn, tick_keeps (fun u hu => h.completed (fun v hv => h.entered hv) hu) hr⟩
      · split at hr
        · exact .inr (tick_keeps (fun u hu => h.completed (fun v hv => h.entered hv) hu) hr)
        · refine .inr (tick_keeps (fun u hu => ?_) hr)
          unfold runInstr at hu
          split at hu
          · rename_i i s1 hf
            exact h.trans (h.fetched hf) (h.exec hu)
          · cases hu
          · cases hu
    · exact .inr (tick_keeps (fun u hu => by cases hu; exact h.refl s) hr)

/-- The CPU reset keeps the relation, but for its clearing of the pending flag. -/
theorem cpuReset {s t : State} (hr : Machine.cpuReset s = .ok () t) :
    ∃ u, R s u ∧ t = { u with nmiPending := false, cpu := t.cpu } := by
  obtain ⟨w, s1, h1, hr⟩ := Res.bind_eq_ok hr
  cases hr
  exact ⟨s1, h.word h1, rfl⟩

end BusRelation

end Sys2Proof.Machine
end

