-- ==== Sys2Proof/Laws/Parameters.lean ====
section
/-! SUPPORT. What R52 says is no state of the block is none here either. The schedule: no call reads it or writes it, so the
outcome of a call is the same under every schedule. The buses: what a run assumes of one after a call is what it assumed
before, with the call's writes put in, so the bytes carried say nothing that the premises and the history of R63 do not. -/

namespace Sys2Proof.Machine

/-! ## The schedule is a parameter -/

/-- The machine under another schedule. -/
def State.schedule (calls loop : List HostCall) (s : State) : State := { s with calls := calls, loop := loop }

/-- Act on the state an operation leaves. -/
def Res.mapState {α : Type} (f : State → State) : Res α → Res α
  | .ok a s => .ok a (f s)
  | .fault e => .fault e
  | .refused e => .refused e

/-- Act on the next state of a call. -/
def Out.mapState (f : State → State) : Out → Out
  | .next s => .next (f s)
  | .fault e => .fault e
  | .refused e => .refused e

section

variable {f : State → State}

/-- A chain commutes with `f` when its parts do. -/
theorem Res.bind_mapState {α β : Type} {r r' : Res α} {k k' : α → State → Res β} (hr : r' = r.mapState f)
    (hk : ∀ a s, k' a (f s) = (k a s).mapState f) : r'.bind k' = (r.bind k).mapState f := by
  subst hr
  cases r with
  | ok a s => exact hk a s
  | fault e => rfl
  | refused e => rfl

theorem Res.finish_mapState {r r' : Res Unit} (hr : r' = r.mapState f) : r'.finish = Out.mapState f r.finish := by
  subst hr
  cases r <;> rfl

end

namespace Schedule

variable (cs l : List HostCall)

theorem port_read (i : Nat) (s : State) : portRead i (s.schedule cs l) = (portRead i s).mapState (State.schedule cs l) := by
  unfold portRead
  change (if s.ppu.resetDone = false then _ else _) = _
  split
  · rfl
  split
  · rfl
  split
  · unfold readStatus
    change (if s.params.spriteStatus = .refuse ∧ s.ppu.mask.getLsbD 4 then _ else _) = _
    split <;> rfl
  · rfl
  · unfold readData
    change (Res.ok (if dataPortAddress s.ppu < 0x3F00 then _ else _ : Byte × State).1
      (incrementDataPort (if dataPortAddress s.ppu < 0x3F00 then _ else _ : Byte × State).2)) = _
    split
    · rfl
    · unfold readDataPalette
      change (Res.ok (if s.params.paletteReadRefillsBuffer = true then _ else _ : Byte × State).1
        (incrementDataPort (if s.params.paletteReadRefillsBuffer = true then _ else _ : Byte × State).2)) = _
      split <;> rfl
  · rfl

theorem port_write (i : Nat) (d : Byte) (s : State) :
    portWrite i d (s.schedule cs l) = (portWrite i d s).mapState (State.schedule cs l) := by
  unfold portWrite
  change (if s.ppu.resetDone = false then _ else _) = _
  split
  · rfl
  split
  · rfl
  split
  case h_5 =>
    unfold writeScroll
    change Res.ok () (if s.ppu.w = true then _ else _) = _
    split <;> rfl
  case h_6 =>
    unfold writeAddr
    change Res.ok () (if s.ppu.w = true then _ else _) = _
    split <;> rfl
  all_goals rfl

theorem mem_read (a : Word) (s : State) : memRead a (s.schedule cs l) = (memRead a s).mapState (State.schedule cs l) := by
  unfold memRead
  split
  · exact Res.bind_mapState (port_read cs l _ s) fun _ _ => rfl
  · rfl

theorem mem_write (a : Word) (d : Byte) (s : State) :
    memWrite a d (s.schedule cs l) = (memWrite a d s).mapState (State.schedule cs l) := by
  unfold memWrite
  split
  · exact Res.bind_mapState (port_write cs l _ d s) fun _ _ => rfl
  · rfl

theorem mem_read16 (a : Word) (s : State) :
    memRead16 a (s.schedule cs l) = (memRead16 a s).mapState (State.schedule cs l) :=
  Res.bind_mapState (mem_read cs l _ s) fun _ s1 => Res.bind_mapState (mem_read cs l _ s1) fun _ _ => rfl

theorem pointer (p : Byte) (s : State) :
    readPointer p (s.schedule cs l) = (readPointer p s).mapState (State.schedule cs l) :=
  Res.bind_mapState (mem_read cs l _ s) fun _ s1 => Res.bind_mapState (mem_read cs l _ s1) fun _ _ => rfl

theorem address (m : MemOperand) (s : State) :
    effective m (s.schedule cs l) = (effective m s).mapState (State.schedule cs l) := by
  cases m with
  | indexedIndirect zz => exact Res.bind_mapState (pointer cs l _ s) fun _ _ => rfl
  | indirectIndexed zz => exact Res.bind_mapState (pointer cs l _ s) fun _ _ => rfl
  | _ => rfl

theorem operand (src : Source) (s : State) :
    readOperand src (s.schedule cs l) = (readOperand src s).mapState (State.schedule cs l) := by
  cases src with
  | immediate b => rfl
  | memory m =>
    exact Res.bind_mapState (address cs l m s) fun _ s1 => Res.bind_mapState (mem_read cs l _ s1) fun _ _ => rfl

theorem pushed (d : Byte) (s : State) : push d (s.schedule cs l) = (push d s).mapState (State.schedule cs l) :=
  Res.bind_mapState (mem_write cs l _ d s) fun _ _ => rfl

theorem pulled (s : State) : pull (s.schedule cs l) = (pull s).mapState (State.schedule cs l) :=
  mem_read cs l _ (s.setSp (s.cpu.sp + 1))

theorem pushed16 (w : Word) (s : State) : push16 w (s.schedule cs l) = (push16 w s).mapState (State.schedule cs l) :=
  Res.bind_mapState (pushed cs l _ s) fun _ s1 => pushed cs l _ s1

theorem pulled16 (s : State) : pull16 (s.schedule cs l) = (pull16 s).mapState (State.schedule cs l) :=
  Res.bind_mapState (pulled cs l s) fun _ s1 => Res.bind_mapState (pulled cs l s1) fun _ _ => rfl

theorem entered (ret : Word) (b : Bool) (vector : Word) (s : State) :
    enter ret b vector (s.schedule cs l) = (enter ret b vector s).mapState (State.schedule cs l) :=
  Res.bind_mapState (pushed16 cs l ret s) fun _ s1 =>
    Res.bind_mapState (pushed cs l _ (s1.setP { s1.cpu.p with b := b })) fun _ s2 =>
      Res.bind_mapState (mem_read16 cs l vector (s2.setP { s2.cpu.p with i := true })) fun _ _ => rfl

theorem left (s : State) : leave (s.schedule cs l) = (leave s).mapState (State.schedule cs l) :=
  Res.bind_mapState (pulled cs l s) fun r s1 =>
    Res.bind_mapState (pulled16 cs l (s1.setP (Flags.ofPulled r))) fun _ _ => rfl

theorem completed {r r' : Res Unit} {n : Nat} (hr : r' = r.mapState (State.schedule cs l)) :
    complete r' n = Out.mapState (State.schedule cs l) (complete r n) :=
  Res.finish_mapState (Res.bind_mapState hr fun _ _ => rfl)

theorem reads (src : Source) (n : Nat) (x : Bool) (act : Byte → Cpu → Cpu) (s : State) :
    readInstr src n x act (s.schedule cs l) = Out.mapState (State.schedule cs l) (readInstr src n x act s) :=
  Res.finish_mapState (Res.bind_mapState (operand cs l src s) fun _ _ => rfl)

theorem stores (m : MemOperand) (n : Nat) (value : Cpu → Byte) (s : State) :
    storeInstr m n value (s.schedule cs l) = Out.mapState (State.schedule cs l) (storeInstr m n value s) :=
  completed cs l (Res.bind_mapState (address cs l m s) fun _ s1 => mem_write cs l _ _ s1)

theorem modifies (m : MemOperand) (n : Nat) (act : Byte → Flags → Byte × Flags) (s : State) :
    modifyMemory m n act (s.schedule cs l) = Out.mapState (State.schedule cs l) (modifyMemory m n act s) :=
  completed cs l (Res.bind_mapState (address cs l m s) fun _ s1 => Res.bind_mapState (mem_read cs l _ s1) fun d s2 =>
    mem_write cs l _ _ (s2.setP (act d s2.cpu.p).2))

theorem branches (n : Nat) (cond : Flags → Bool) (rr : Byte) (s : State) :
    branchInstr n cond rr (s.schedule cs l) = Out.mapState (State.schedule cs l) (branchInstr n cond rr s) := by
  unfold branchInstr
  change (if cond s.cpu.p = true then _ else _) = _
  split <;> rfl

/-- No instruction reads or writes the schedule. -/
theorem exec (i : Instr) (s : State) :
    Machine.exec i (s.schedule cs l) = Out.mapState (State.schedule cs l) (Machine.exec i s) := by
  cases i
  case pha => exact completed cs l (pushed cs l _ s)
  case php => exact completed cs l (pushed cs l _ s)
  case pla => exact completed cs l (Res.bind_mapState (pulled cs l s) fun _ _ => rfl)
  case plp => exact completed cs l (Res.bind_mapState (pulled cs l s) fun _ _ => rfl)
  case jmpInd a =>
    exact completed cs l (Res.bind_mapState (Res.bind_mapState (mem_read cs l _ s) fun _ s1 =>
      Res.bind_mapState (mem_read cs l _ s1) fun _ _ => rfl) fun _ _ => rfl)
  case jsr a => exact completed cs l (Res.bind_mapState (pushed16 cs l _ s) fun _ _ => rfl)
  case rts => exact completed cs l (Res.bind_mapState (pulled16 cs l s) fun _ _ => rfl)
  case bpl rr => exact branches cs l 2 (fun p => !p.n) rr s
  case bvc rr => exact branches cs l 2 (fun p => !p.v) rr s
  case bcc rr => exact branches cs l 2 (fun p => !p.c) rr s
  case bne rr => exact branches cs l 2 (fun p => !p.z) rr s
  case brk => exact completed cs l (entered cs l _ _ _ s)
  case rti => exact completed cs l (left cs l s)
  all_goals first
    | exact branches cs l _ _ _ s
    | exact reads cs l _ _ _ _ s
    | exact stores cs l _ _ _ s
    | exact modifies cs l _ _ _ s
    | rfl

theorem fetchedByte (s : State) : fetchByte (s.schedule cs l) = (fetchByte s).mapState (State.schedule cs l) :=
  Res.bind_mapState (mem_read cs l _ s) fun _ _ => rfl

theorem fetched (s : State) : fetchInstr (s.schedule cs l) = (fetchInstr s).mapState (State.schedule cs l) := by
  refine Res.bind_mapState (mem_read cs l _ s) fun op s1 => ?_
  split
  · rfl
  · rfl
  · exact Res.bind_mapState (fetchedByte cs l (s1.setPc (s1.cpu.pc + 1))) fun _ _ => rfl
  · exact Res.bind_mapState (fetchedByte cs l (s1.setPc (s1.cpu.pc + 1))) fun _ s2 =>
      Res.bind_mapState (fetchedByte cs l s2) fun _ _ => rfl

theorem runs (s : State) : runInstr (s.schedule cs l) = Out.mapState (State.schedule cs l) (runInstr s) := by
  unfold runInstr
  rw [fetched]
  cases fetchInstr s with
  | ok i s1 => exact exec cs l i s1
  | fault f => rfl
  | refused r => rfl

theorem begins (s : State) : beginCall (s.schedule cs l) = Out.mapState (State.schedule cs l) (beginCall s) := by
  unfold beginCall
  change (if s.nmiPending = true then _ else if (s.irqLine && !s.cpu.p.i) = true then _ else _) = _
  split
  · exact completed cs l (entered cs l _ _ _ { s with nmiPending := false })
  split
  · exact completed cs l (entered cs l _ _ _ s)
  · exact runs cs l s

theorem ticks {o o' : Out} (ho : o' = Out.mapState (State.schedule cs l) o) :
    tick o' = Out.mapState (State.schedule cs l) (tick o) := by
  subst ho
  cases o <;> rfl

theorem clock (s : State) : cpuClock (s.schedule cs l) = Out.mapState (State.schedule cs l) (cpuClock s) := by
  unfold cpuClock
  change (if s.cpu.resetDone = false then _ else if s.cpu.cycles = 0 then _ else _) = _
  split
  · rfl
  split
  · exact ticks cs l (begins cs l s)
  · rfl

theorem background (line : Int) (d : Nat) (s : State) :
    backgroundDot line d (s.schedule cs l) = (backgroundDot line d s).schedule cs l := by
  have phase (s : State) : fetchPhase d (s.schedule cs l) = (fetchPhase d s).schedule cs l := by
    unfold fetchPhase
    split <;> rfl
  have trailing (s : State) : trailingRead d (s.schedule cs l) = (trailingRead d s).schedule cs l := by
    unfold trailingRead
    split <;> rfl
  have mapped (g : Ppu → Ppu) (s : State) : (s.schedule cs l).mapPpu g = (s.mapPpu g).schedule cs l := rfl
  have params : (s.schedule cs l).params = s.params := rfl
  unfold backgroundDot
  cases fetchDot d <;> simp only [mapped, params, phase, trailing, if_true, Bool.false_eq_true, if_false]

theorem render (s : State) : renderDot (s.schedule cs l) = (renderDot s).schedule cs l := by
  unfold renderDot
  change (if -1 ≤ s.ppu.scanline ∧ s.ppu.scanline ≤ 239 ∧ renderingEnabled s.ppu = true then _ else _) = _
  split
  · exact background cs l _ _ s
  · rfl

theorem pixel (s : State) : pixelDot (s.schedule cs l) = (pixelDot s).schedule cs l := by
  unfold pixelDot
  change (if 0 ≤ s.ppu.scanline ∧ s.ppu.scanline ≤ 239 ∧ 1 ≤ s.ppu.dot ∧ s.ppu.dot ≤ 256 then _ else _) = _
  split <;> rfl

theorem sprites (d : Nat) (s : State) : spriteDraws d (s.schedule cs l) = (spriteDraws d s).schedule cs l := by
  have overflow (s : State) : (if renderingEnabled s.ppu then drawSpriteOverflow (s.schedule cs l) else s.schedule cs l) =
      State.schedule cs l (if renderingEnabled s.ppu then drawSpriteOverflow s else s) := by
    split <;> rfl
  unfold spriteDraws
  by_cases h : 1 ≤ d ∧ d ≤ 256 ∧ s.ppu.mask.getLsbD 3 = true ∧ s.ppu.mask.getLsbD 4 = true
  · rw [if_pos h, if_pos (show 1 ≤ d ∧ d ≤ 256 ∧ (s.schedule cs l).ppu.mask.getLsbD 3 = true ∧
      (s.schedule cs l).ppu.mask.getLsbD 4 = true from h)]
    exact overflow (drawSprite0 s)
  · rw [if_neg h, if_neg (show ¬(1 ≤ d ∧ d ≤ 256 ∧ (s.schedule cs l).ppu.mask.getLsbD 3 = true ∧
      (s.schedule cs l).ppu.mask.getLsbD 4 = true) from h)]
    exact overflow s

theorem events (line : Int) (d : Nat) (s : State) :
    statusEvents line d (s.schedule cs l) = (statusEvents line d s).schedule cs l := by
  unfold statusEvents
  change (if line = 241 ∧ d = 1 then _ else if line = -1 ∧ d = 1 then _ else
    if 0 ≤ line ∧ line ≤ 239 ∧ s.params.spriteStatus = .draw then _ else _) = _
  split
  · rfl
  split
  · rfl
  split
  · exact sprites cs l d s
  · rfl

theorem dot (s : State) : ppuDot (s.schedule cs l) = (ppuDot s).schedule cs l := by
  unfold ppuDot
  simp only [render, pixel]
  exact congrArg (State.mapPpu advance) (events cs l _ _ (pixelDot (renderDot s)))

/-- R52, R6: the schedule is a parameter. Whatever call the host makes, its outcome is the same under every schedule, and
it leaves the schedule as it is. -/
theorem call (c : HostCall) (s : State) :
    runCall c (s.schedule cs l) = Out.mapState (State.schedule cs l) (runCall c s) := by
  cases c with
  | cpuReset =>
    exact Res.finish_mapState (r := cpuReset s) (r' := cpuReset (s.schedule cs l)) (Res.bind_mapState (mem_read16 cs l resetVector s) fun _ _ => rfl)
  | cpuClock => exact clock cs l s
  | ppuReset => rfl
  | ppuClock =>
    refine Res.finish_mapState (r := ppuClock s) (r' := ppuClock (s.schedule cs l)) ?_
    unfold ppuClock
    rw [dot]
    change (if s.ppu.resetDone = false then _ else _) = _
    split <;> rfl
  | ppuRead i => exact Res.finish_mapState (Res.bind_mapState (port_read cs l i s) fun _ _ => rfl)
  | ppuWrite i d => exact Res.finish_mapState (port_write cs l i d s)
  | inspect => rfl
  | setIrq level => rfl

end Schedule

/-! ## The bytes of a bus are its premises and the history -/

/-- A bus's premises after one event: a write is put in where the bus is RAM. -/
def Bus.afterExt (b : Bus) : IoEvent → Bus
  | .cpuWrite a d => if inWindow a then b else b.store a.toNat d
  | .cpuRead _ _ => b
  | .ppuRead _ _ => b
  | .ppuWrite _ _ => b
  | .portRead _ _ => b
  | .pixel _ _ _ => b
  | .greyscale _ => b

/-- The same for the PPU bus. -/
def Bus.afterPpu (b : Bus) : IoEvent → Bus
  | .ppuWrite a d => b.store a.toNat d
  | .cpuRead _ _ => b
  | .cpuWrite _ _ => b
  | .ppuRead _ _ => b
  | .portRead _ _ => b
  | .pixel _ _ _ => b
  | .greyscale _ => b

/-- From `s` to `t` the history grew by `events`, and both buses' premises are those of `s` with the writes among `events`
put in, in order. -/
structure Replays (s t : State) (events : List IoEvent) : Prop where
  history : t.history = events.reverse ++ s.history
  ext : t.ext = events.foldl Bus.afterExt s.ext
  ppuBus : t.ppuBus = events.foldl Bus.afterPpu s.ppuBus

theorem Replays.trans {s t u : State} {l m : List IoEvent} (h : Replays s t l) (k : Replays t u m) :
    Replays s u (l ++ m) :=
  ⟨by rw [k.history, h.history, List.reverse_append, List.append_assoc], by rw [k.ext, h.ext, List.foldl_append],
    by rw [k.ppuBus, h.ppuBus, List.foldl_append]⟩

theorem Replays.of_eq {s t : State} (hh : t.history = s.history) (he : t.ext = s.ext) (hp : t.ppuBus = s.ppuBus) :
    Replays s t [] := ⟨hh, he, hp⟩

/-- The relation between two states of a run that some transfers lead from one to the other. -/
def Replayed (s t : State) : Prop := ∃ events, Replays s t events

theorem Replayed.trans {s t u : State} (h : Replayed s t) (k : Replayed t u) : Replayed s u := by
  obtain ⟨l, hl⟩ := h
  obtain ⟨m, hm⟩ := k
  exact ⟨l ++ m, hl.trans hm⟩

/-- A read of the PPU bus. -/
theorem replayed_ppuBusRead (a : BitVec 14) (s : State) : Replayed s (ppuBusRead a s).2 :=
  ⟨[.ppuRead a (ppuBusAnswer a s)], rfl, rfl, rfl⟩

theorem replayed_portRead {i : Nat} {s t : State} {d : Byte} (h : portRead i s = .ok d t) : Replayed s t := by
  unfold portRead at h
  split at h
  · cases h
  split at h
  · cases h
  split at h
  · unfold readStatus at h
    split at h
    · cases h
    · cases h
      exact ⟨[], .of_eq rfl rfl rfl⟩
  · cases h
    exact ⟨[], .of_eq rfl rfl rfl⟩
  · cases h
    split
    · exact ⟨[.ppuRead _ _], rfl, rfl, rfl⟩
    · unfold readDataPalette
      split
      · exact ⟨[.ppuRead _ _, .ppuRead _ _], rfl, rfl, rfl⟩
      · exact ⟨[.ppuRead _ _], rfl, rfl, rfl⟩
  · cases h
    exact ⟨[], .of_eq rfl rfl rfl⟩

theorem replayed_portWrite {i : Nat} {s t : State} {d : Byte} (h : portWrite i d s = .ok () t) : Replayed s t := by
  unfold portWrite at h
  split at h
  · cases h
  split at h
  · cases h
  split at h <;> cases h
  case h_5 => unfold writeScroll; split <;> exact ⟨[], .of_eq rfl rfl rfl⟩
  case h_6 => unfold writeAddr; split <;> exact ⟨[], .of_eq rfl rfl rfl⟩
  case h_7 => exact ⟨[.ppuWrite _ d], rfl, rfl, rfl⟩
  all_goals exact ⟨[], .of_eq rfl rfl rfl⟩

/-- Every transfer of the processor bus is replayed by the history it joins. -/
theorem replayed_bus : BusRelation Replayed where
  refl _ := ⟨[], .of_eq rfl rfl rfl⟩
  trans := Replayed.trans
  cpu _ _ := ⟨[], .of_eq rfl rfl rfl⟩
  read := by
    intro a d s t h
    unfold memRead at h
    split at h
    · obtain ⟨d', u, hu, h⟩ := Res.bind_eq_ok h
      cases h
      exact (replayed_portRead hu).trans ⟨[.cpuRead a d], rfl, rfl, rfl⟩
    · cases h
      exact ⟨[.cpuRead a _], rfl, rfl, rfl⟩
  write := by
    intro a d s t h
    unfold memWrite at h
    split at h
    · rename_i hw
      obtain ⟨_, u, hu, h⟩ := Res.bind_eq_ok h
      cases h
      exact (replayed_portWrite hu).trans ⟨[.cpuWrite a d], rfl, by simp [Bus.afterExt, hw], rfl⟩
    · rename_i hw
      cases h
      exact ⟨[.cpuWrite a d], rfl, by simp [Bus.afterExt, hw, extWrite], rfl⟩

/-- A dot makes no write on either bus. -/
theorem replayed_dot (s : State) : Replayed s (ppuDot s) := by
  have phase (d : Nat) (s : State) : Replayed s (fetchPhase d s) := by
    unfold fetchPhase
    split <;> first
      | exact ⟨[.ppuRead _ _], rfl, rfl, rfl⟩
      | exact ⟨[], .of_eq rfl rfl rfl⟩
  have trailing (d : Nat) (s : State) : Replayed s (trailingRead d s) := by
    unfold trailingRead
    split
    · exact replayed_ppuBusRead _ s
    · exact ⟨[], .of_eq rfl rfl rfl⟩
  have mapped (g : Ppu → Ppu) {s t : State} (h : Replayed s t) : Replayed s (t.mapPpu g) :=
    h.trans ⟨[], .of_eq rfl rfl rfl⟩
  have render : Replayed s (renderDot s) := by
    unfold renderDot
    split
    · unfold backgroundDot
      refine Replayed.trans (mapped _ ?_) (trailing _ _)
      have pipeline : Replayed s (s.mapPpu (pipelineDot s.ppu.dot)) := ⟨[], .of_eq rfl rfl rfl⟩
      split
      · exact pipeline.trans (phase _ _)
      · exact pipeline
    · exact ⟨[], .of_eq rfl rfl rfl⟩
  have pixel : Replayed s (pixelDot (renderDot s)) := by
    refine render.trans ?_
    unfold pixelDot
    split <;> exact ⟨[], .of_eq rfl rfl rfl⟩
  refine mapped advance (pixel.trans ?_)
  obtain ⟨_, _, _, _, _, _, h⟩ := statusEvents_form (pixelDot (renderDot s)).ppu.scanline
    (pixelDot (renderDot s)).ppu.dot (pixelDot (renderDot s))
  rw [h]
  exact ⟨[], .of_eq rfl rfl rfl⟩

/-- R52, R63: over any call of the host, the bytes carried for each bus are the premises of before with the call's own writes
put in: they hold nothing of a bus beyond the premises of the run and the history of its accesses. -/
theorem call_replayed {c : HostCall} {s t : State} (h : runCall c s = .next t) : Replayed s t := by
  have finished {r : Res Unit} (hr : r.finish = .next t) : r = .ok () t := by
    cases r <;> cases hr
    rfl
  cases c with
  | cpuReset =>
    obtain ⟨u, hu, ht⟩ := replayed_bus.cpuReset (finished h)
    rw [ht]
    exact hu.trans ⟨[], .of_eq rfl rfl rfl⟩
  | cpuClock =>
    obtain ⟨_, _, events, hh, he, hp⟩ | hu := replayed_bus.clock h
    · exact ⟨events, hh, he, hp⟩
    · exact hu
  | ppuReset =>
    cases h
    exact ⟨[], .of_eq rfl rfl rfl⟩
  | ppuClock =>
    have h := finished h
    unfold ppuClock at h
    split at h
    · cases h
    · cases h
      exact replayed_dot s
  | ppuRead i =>
    obtain ⟨d, u, hu, ht⟩ := Res.bind_eq_ok (finished h)
    cases ht
    exact (replayed_portRead hu).trans ⟨[], .of_eq rfl rfl rfl⟩
  | ppuWrite i d => exact replayed_portWrite (finished h)
  | inspect =>
    cases h
    exact ⟨[], .of_eq rfl rfl rfl⟩
  | setIrq level =>
    cases h
    exact ⟨[], .of_eq rfl rfl rfl⟩

end Sys2Proof.Machine
end

