-- ==== Sys2Proof/Laws/PerInstr.lean ====
section
/-! SUPPORT. One fact about every instruction as syntax, made per constructor: its encoding is exactly one well-formed byte
string, as long as its addressing mode says (spec/30_encoding.md R85, R86, R88, R91). -/

/-- The length of R86 and R88 for each addressing mode. -/
def Sys2Proof.Laws.modeLength : Sys2Proof.Mode → Nat
  | .implied => 1
  | .accumulator => 1
  | .immediate => 2
  | .zeroPage => 2
  | .zeroPageX => 2
  | .zeroPageY => 2
  | .absolute => 3
  | .absoluteX => 3
  | .absoluteY => 3
  | .indirect => 3
  | .indexedIndirect => 2
  | .indirectIndexed => 2
  | .relative => 2

/-- The encoding is a well-formed byte string of the mode's length. -/
def Sys2Proof.Laws.EncodedLength.Statement (i : Sys2Proof.Instr) : Prop :=
  Sys2Proof.wellFormedBytes (Sys2Proof.encode i) = true ∧
    (Sys2Proof.encode i).length = Sys2Proof.Laws.modeLength i.mode

namespace Sys2Proof.Laws.EncodedLength

theorem ldaImm (b : Byte) : Statement (.ldaImm b) := ⟨rfl, rfl⟩
theorem ldaZp0 (zz : Byte) : Statement (.ldaZp0 zz) := ⟨rfl, rfl⟩
theorem ldaZpx (zz : Byte) : Statement (.ldaZpx zz) := ⟨rfl, rfl⟩
theorem ldaAbs (a : Word) : Statement (.ldaAbs a) := ⟨rfl, rfl⟩
theorem ldaAbx (a : Word) : Statement (.ldaAbx a) := ⟨rfl, rfl⟩
theorem ldaAby (a : Word) : Statement (.ldaAby a) := ⟨rfl, rfl⟩
theorem ldaIzx (zz : Byte) : Statement (.ldaIzx zz) := ⟨rfl, rfl⟩
theorem ldaIzy (zz : Byte) : Statement (.ldaIzy zz) := ⟨rfl, rfl⟩
theorem ldxImm (b : Byte) : Statement (.ldxImm b) := ⟨rfl, rfl⟩
theorem ldxZp0 (zz : Byte) : Statement (.ldxZp0 zz) := ⟨rfl, rfl⟩
theorem ldxZpy (zz : Byte) : Statement (.ldxZpy zz) := ⟨rfl, rfl⟩
theorem ldxAbs (a : Word) : Statement (.ldxAbs a) := ⟨rfl, rfl⟩
theorem ldxAby (a : Word) : Statement (.ldxAby a) := ⟨rfl, rfl⟩
theorem ldyImm (b : Byte) : Statement (.ldyImm b) := ⟨rfl, rfl⟩
theorem ldyZp0 (zz : Byte) : Statement (.ldyZp0 zz) := ⟨rfl, rfl⟩
theorem ldyZpx (zz : Byte) : Statement (.ldyZpx zz) := ⟨rfl, rfl⟩
theorem ldyAbs (a : Word) : Statement (.ldyAbs a) := ⟨rfl, rfl⟩
theorem ldyAbx (a : Word) : Statement (.ldyAbx a) := ⟨rfl, rfl⟩
theorem staZp0 (zz : Byte) : Statement (.staZp0 zz) := ⟨rfl, rfl⟩
theorem staZpx (zz : Byte) : Statement (.staZpx zz) := ⟨rfl, rfl⟩
theorem staAbs (a : Word) : Statement (.staAbs a) := ⟨rfl, rfl⟩
theorem staAbx (a : Word) : Statement (.staAbx a) := ⟨rfl, rfl⟩
theorem staAby (a : Word) : Statement (.staAby a) := ⟨rfl, rfl⟩
theorem staIzx (zz : Byte) : Statement (.staIzx zz) := ⟨rfl, rfl⟩
theorem staIzy (zz : Byte) : Statement (.staIzy zz) := ⟨rfl, rfl⟩
theorem stxZp0 (zz : Byte) : Statement (.stxZp0 zz) := ⟨rfl, rfl⟩
theorem stxZpy (zz : Byte) : Statement (.stxZpy zz) := ⟨rfl, rfl⟩
theorem stxAbs (a : Word) : Statement (.stxAbs a) := ⟨rfl, rfl⟩
theorem styZp0 (zz : Byte) : Statement (.styZp0 zz) := ⟨rfl, rfl⟩
theorem styZpx (zz : Byte) : Statement (.styZpx zz) := ⟨rfl, rfl⟩
theorem styAbs (a : Word) : Statement (.styAbs a) := ⟨rfl, rfl⟩
theorem tax : Statement .tax := ⟨rfl, rfl⟩
theorem tay : Statement .tay := ⟨rfl, rfl⟩
theorem txa : Statement .txa := ⟨rfl, rfl⟩
theorem tya : Statement .tya := ⟨rfl, rfl⟩
theorem tsx : Statement .tsx := ⟨rfl, rfl⟩
theorem txs : Statement .txs := ⟨rfl, rfl⟩
theorem pha : Statement .pha := ⟨rfl, rfl⟩
theorem php : Statement .php := ⟨rfl, rfl⟩
theorem pla : Statement .pla := ⟨rfl, rfl⟩
theorem plp : Statement .plp := ⟨rfl, rfl⟩
theorem andImm (b : Byte) : Statement (.andImm b) := ⟨rfl, rfl⟩
theorem andZp0 (zz : Byte) : Statement (.andZp0 zz) := ⟨rfl, rfl⟩
theorem andZpx (zz : Byte) : Statement (.andZpx zz) := ⟨rfl, rfl⟩
theorem andAbs (a : Word) : Statement (.andAbs a) := ⟨rfl, rfl⟩
theorem andAbx (a : Word) : Statement (.andAbx a) := ⟨rfl, rfl⟩
theorem andAby (a : Word) : Statement (.andAby a) := ⟨rfl, rfl⟩
theorem andIzx (zz : Byte) : Statement (.andIzx zz) := ⟨rfl, rfl⟩
theorem andIzy (zz : Byte) : Statement (.andIzy zz) := ⟨rfl, rfl⟩
theorem oraImm (b : Byte) : Statement (.oraImm b) := ⟨rfl, rfl⟩
theorem oraZp0 (zz : Byte) : Statement (.oraZp0 zz) := ⟨rfl, rfl⟩
theorem oraZpx (zz : Byte) : Statement (.oraZpx zz) := ⟨rfl, rfl⟩
theorem oraAbs (a : Word) : Statement (.oraAbs a) := ⟨rfl, rfl⟩
theorem oraAbx (a : Word) : Statement (.oraAbx a) := ⟨rfl, rfl⟩
theorem oraAby (a : Word) : Statement (.oraAby a) := ⟨rfl, rfl⟩
theorem oraIzx (zz : Byte) : Statement (.oraIzx zz) := ⟨rfl, rfl⟩
theorem oraIzy (zz : Byte) : Statement (.oraIzy zz) := ⟨rfl, rfl⟩
theorem eorImm (b : Byte) : Statement (.eorImm b) := ⟨rfl, rfl⟩
theorem eorZp0 (zz : Byte) : Statement (.eorZp0 zz) := ⟨rfl, rfl⟩
theorem eorZpx (zz : Byte) : Statement (.eorZpx zz) := ⟨rfl, rfl⟩
theorem eorAbs (a : Word) : Statement (.eorAbs a) := ⟨rfl, rfl⟩
theorem eorAbx (a : Word) : Statement (.eorAbx a) := ⟨rfl, rfl⟩
theorem eorAby (a : Word) : Statement (.eorAby a) := ⟨rfl, rfl⟩
theorem eorIzx (zz : Byte) : Statement (.eorIzx zz) := ⟨rfl, rfl⟩
theorem eorIzy (zz : Byte) : Statement (.eorIzy zz) := ⟨rfl, rfl⟩
theorem bitZp0 (zz : Byte) : Statement (.bitZp0 zz) := ⟨rfl, rfl⟩
theorem bitAbs (a : Word) : Statement (.bitAbs a) := ⟨rfl, rfl⟩
theorem aslAcc : Statement .aslAcc := ⟨rfl, rfl⟩
theorem aslZp0 (zz : Byte) : Statement (.aslZp0 zz) := ⟨rfl, rfl⟩
theorem aslZpx (zz : Byte) : Statement (.aslZpx zz) := ⟨rfl, rfl⟩
theorem aslAbs (a : Word) : Statement (.aslAbs a) := ⟨rfl, rfl⟩
theorem aslAbx (a : Word) : Statement (.aslAbx a) := ⟨rfl, rfl⟩
theorem lsrAcc : Statement .lsrAcc := ⟨rfl, rfl⟩
theorem lsrZp0 (zz : Byte) : Statement (.lsrZp0 zz) := ⟨rfl, rfl⟩
theorem lsrZpx (zz : Byte) : Statement (.lsrZpx zz) := ⟨rfl, rfl⟩
theorem lsrAbs (a : Word) : Statement (.lsrAbs a) := ⟨rfl, rfl⟩
theorem lsrAbx (a : Word) : Statement (.lsrAbx a) := ⟨rfl, rfl⟩
theorem rolAcc : Statement .rolAcc := ⟨rfl, rfl⟩
theorem rolZp0 (zz : Byte) : Statement (.rolZp0 zz) := ⟨rfl, rfl⟩
theorem rolZpx (zz : Byte) : Statement (.rolZpx zz) := ⟨rfl, rfl⟩
theorem rolAbs (a : Word) : Statement (.rolAbs a) := ⟨rfl, rfl⟩
theorem rolAbx (a : Word) : Statement (.rolAbx a) := ⟨rfl, rfl⟩
theorem rorAcc : Statement .rorAcc := ⟨rfl, rfl⟩
theorem rorZp0 (zz : Byte) : Statement (.rorZp0 zz) := ⟨rfl, rfl⟩
theorem rorZpx (zz : Byte) : Statement (.rorZpx zz) := ⟨rfl, rfl⟩
theorem rorAbs (a : Word) : Statement (.rorAbs a) := ⟨rfl, rfl⟩
theorem rorAbx (a : Word) : Statement (.rorAbx a) := ⟨rfl, rfl⟩
theorem adcImm (b : Byte) : Statement (.adcImm b) := ⟨rfl, rfl⟩
theorem adcZp0 (zz : Byte) : Statement (.adcZp0 zz) := ⟨rfl, rfl⟩
theorem adcZpx (zz : Byte) : Statement (.adcZpx zz) := ⟨rfl, rfl⟩
theorem adcAbs (a : Word) : Statement (.adcAbs a) := ⟨rfl, rfl⟩
theorem adcAbx (a : Word) : Statement (.adcAbx a) := ⟨rfl, rfl⟩
theorem adcAby (a : Word) : Statement (.adcAby a) := ⟨rfl, rfl⟩
theorem adcIzx (zz : Byte) : Statement (.adcIzx zz) := ⟨rfl, rfl⟩
theorem adcIzy (zz : Byte) : Statement (.adcIzy zz) := ⟨rfl, rfl⟩
theorem sbcImm (b : Byte) : Statement (.sbcImm b) := ⟨rfl, rfl⟩
theorem sbcZp0 (zz : Byte) : Statement (.sbcZp0 zz) := ⟨rfl, rfl⟩
theorem sbcZpx (zz : Byte) : Statement (.sbcZpx zz) := ⟨rfl, rfl⟩
theorem sbcAbs (a : Word) : Statement (.sbcAbs a) := ⟨rfl, rfl⟩
theorem sbcAbx (a : Word) : Statement (.sbcAbx a) := ⟨rfl, rfl⟩
theorem sbcAby (a : Word) : Statement (.sbcAby a) := ⟨rfl, rfl⟩
theorem sbcIzx (zz : Byte) : Statement (.sbcIzx zz) := ⟨rfl, rfl⟩
theorem sbcIzy (zz : Byte) : Statement (.sbcIzy zz) := ⟨rfl, rfl⟩
theorem cmpImm (b : Byte) : Statement (.cmpImm b) := ⟨rfl, rfl⟩
theorem cmpZp0 (zz : Byte) : Statement (.cmpZp0 zz) := ⟨rfl, rfl⟩
theorem cmpZpx (zz : Byte) : Statement (.cmpZpx zz) := ⟨rfl, rfl⟩
theorem cmpAbs (a : Word) : Statement (.cmpAbs a) := ⟨rfl, rfl⟩
theorem cmpAbx (a : Word) : Statement (.cmpAbx a) := ⟨rfl, rfl⟩
theorem cmpAby (a : Word) : Statement (.cmpAby a) := ⟨rfl, rfl⟩
theorem cmpIzx (zz : Byte) : Statement (.cmpIzx zz) := ⟨rfl, rfl⟩
theorem cmpIzy (zz : Byte) : Statement (.cmpIzy zz) := ⟨rfl, rfl⟩
theorem cpxImm (b : Byte) : Statement (.cpxImm b) := ⟨rfl, rfl⟩
theorem cpxZp0 (zz : Byte) : Statement (.cpxZp0 zz) := ⟨rfl, rfl⟩
theorem cpxAbs (a : Word) : Statement (.cpxAbs a) := ⟨rfl, rfl⟩
theorem cpyImm (b : Byte) : Statement (.cpyImm b) := ⟨rfl, rfl⟩
theorem cpyZp0 (zz : Byte) : Statement (.cpyZp0 zz) := ⟨rfl, rfl⟩
theorem cpyAbs (a : Word) : Statement (.cpyAbs a) := ⟨rfl, rfl⟩
theorem incZp0 (zz : Byte) : Statement (.incZp0 zz) := ⟨rfl, rfl⟩
theorem incZpx (zz : Byte) : Statement (.incZpx zz) := ⟨rfl, rfl⟩
theorem incAbs (a : Word) : Statement (.incAbs a) := ⟨rfl, rfl⟩
theorem incAbx (a : Word) : Statement (.incAbx a) := ⟨rfl, rfl⟩
theorem decZp0 (zz : Byte) : Statement (.decZp0 zz) := ⟨rfl, rfl⟩
theorem decZpx (zz : Byte) : Statement (.decZpx zz) := ⟨rfl, rfl⟩
theorem decAbs (a : Word) : Statement (.decAbs a) := ⟨rfl, rfl⟩
theorem decAbx (a : Word) : Statement (.decAbx a) := ⟨rfl, rfl⟩
theorem inx : Statement .inx := ⟨rfl, rfl⟩
theorem iny : Statement .iny := ⟨rfl, rfl⟩
theorem dex : Statement .dex := ⟨rfl, rfl⟩
theorem dey : Statement .dey := ⟨rfl, rfl⟩
theorem bpl (rr : Byte) : Statement (.bpl rr) := ⟨rfl, rfl⟩
theorem bmi (rr : Byte) : Statement (.bmi rr) := ⟨rfl, rfl⟩
theorem bvc (rr : Byte) : Statement (.bvc rr) := ⟨rfl, rfl⟩
theorem bvs (rr : Byte) : Statement (.bvs rr) := ⟨rfl, rfl⟩
theorem bcc (rr : Byte) : Statement (.bcc rr) := ⟨rfl, rfl⟩
theorem bcs (rr : Byte) : Statement (.bcs rr) := ⟨rfl, rfl⟩
theorem bne (rr : Byte) : Statement (.bne rr) := ⟨rfl, rfl⟩
theorem beq (rr : Byte) : Statement (.beq rr) := ⟨rfl, rfl⟩
theorem jmpAbs (a : Word) : Statement (.jmpAbs a) := ⟨rfl, rfl⟩
theorem jmpInd (a : Word) : Statement (.jmpInd a) := ⟨rfl, rfl⟩
theorem jsr (a : Word) : Statement (.jsr a) := ⟨rfl, rfl⟩
theorem rts : Statement .rts := ⟨rfl, rfl⟩
theorem brk : Statement .brk := ⟨rfl, rfl⟩
theorem rti : Statement .rti := ⟨rfl, rfl⟩
theorem clc : Statement .clc := ⟨rfl, rfl⟩
theorem sec : Statement .sec := ⟨rfl, rfl⟩
theorem cli : Statement .cli := ⟨rfl, rfl⟩
theorem sei : Statement .sei := ⟨rfl, rfl⟩
theorem cld : Statement .cld := ⟨rfl, rfl⟩
theorem sed : Statement .sed := ⟨rfl, rfl⟩
theorem clv : Statement .clv := ⟨rfl, rfl⟩
theorem nop : Statement .nop := ⟨rfl, rfl⟩

end Sys2Proof.Laws.EncodedLength
end

