-- ==== Sys2Proof/Tests/Slice0.lean ====
section
/-! SUPPORT. The model's own tests: ill-formed byte strings, the decoding of every instruction by the words its rule writes
out, one step per vector of spec/95_test_vectors.md L2, and for every obligation with hypotheses a named witness that meets
them. Expected values come from the spec's rules and vectors. -/

namespace Sys2Proof.Tests

open Sys2Proof Sys2Proof.Machine Sys2Proof.Stated

set_option Elab.async false

/-! ## Well-formedness (R86, R91, R93) -/

theorem test_undefined_opcode_is_ill_formed : wellFormedBytes [0x02] = false := by decide +kernel
theorem test_truncated_is_ill_formed : wellFormedBytes [0xA9] = false := by decide +kernel
theorem test_truncated_word_is_ill_formed : wellFormedBytes [0x4C, 0x00] = false := by decide +kernel
theorem test_excess_is_ill_formed : wellFormedBytes [0xEA, 0x00] = false := by decide +kernel
theorem test_empty_is_ill_formed : wellFormedBytes [] = false := by decide +kernel
theorem test_lda_is_well_formed : wellFormedBytes [0xA9, 0x10] = true := by decide +kernel

/-! ## Decoding -/

/-- The instruction the decoder reads when nothing is left over. -/
def read1 (bytes : List Byte) : Option Instr :=
  match decode bytes with
  | .ok (i, []) => some i
  | .ok (_, _ :: _) => none
  | .error _ => none

/-- Whether a byte string is rejected, and why. -/
def rejection (bytes : List Byte) : Option DecodeError :=
  match decode bytes with
  | .ok _ => none
  | .error e => some e

theorem test_decode_rejects_by_name :
    rejection [0x02] = some (.undefinedOpcode 0x02) ∧ rejection [0xEB, 0x01] = some (.undefinedOpcode 0xEB) ∧
    rejection [0xA9] = some .truncated ∧ rejection [0x4C, 0x00] = some .truncated := by decide +kernel

theorem test_decode_table_word :
    decodeTableWord 8 0xA9 = some (.ldaImm 0x00) ∧ decodeTableWord 24 0x02006C = some (.jmpInd 0x0200) ∧
    decodeTableWord 8 0x02 = none := by decide +kernel

/-- The encodings of R130. -/
theorem test_decode_lda :
    read1 [0b10101001, 0x9C] = some (.ldaImm 0x9C) ∧
    read1 [0b10100101, 0x9C] = some (.ldaZp0 0x9C) ∧
    read1 [0b10110101, 0x9C] = some (.ldaZpx 0x9C) ∧
    read1 [0b10101101, 0x9C, 0x03] = some (.ldaAbs 0x039C) ∧
    read1 [0b10111101, 0x9C, 0x03] = some (.ldaAbx 0x039C) ∧
    read1 [0b10111001, 0x9C, 0x03] = some (.ldaAby 0x039C) ∧
    read1 [0b10100001, 0x9C] = some (.ldaIzx 0x9C) ∧
    read1 [0b10110001, 0x9C] = some (.ldaIzy 0x9C) := by decide +kernel

/-- The encodings of R131. -/
theorem test_decode_ldx :
    read1 [0b10100010, 0x9C] = some (.ldxImm 0x9C) ∧
    read1 [0b10100110, 0x9C] = some (.ldxZp0 0x9C) ∧
    read1 [0b10110110, 0x9C] = some (.ldxZpy 0x9C) ∧
    read1 [0b10101110, 0x9C, 0x03] = some (.ldxAbs 0x039C) ∧
    read1 [0b10111110, 0x9C, 0x03] = some (.ldxAby 0x039C) := by decide +kernel

/-- The encodings of R132. -/
theorem test_decode_ldy :
    read1 [0b10100000, 0x9C] = some (.ldyImm 0x9C) ∧
    read1 [0b10100100, 0x9C] = some (.ldyZp0 0x9C) ∧
    read1 [0b10110100, 0x9C] = some (.ldyZpx 0x9C) ∧
    read1 [0b10101100, 0x9C, 0x03] = some (.ldyAbs 0x039C) ∧
    read1 [0b10111100, 0x9C, 0x03] = some (.ldyAbx 0x039C) := by decide +kernel

/-- The encodings of R133. -/
theorem test_decode_sta :
    read1 [0b10000101, 0x9C] = some (.staZp0 0x9C) ∧
    read1 [0b10010101, 0x9C] = some (.staZpx 0x9C) ∧
    read1 [0b10001101, 0x9C, 0x03] = some (.staAbs 0x039C) ∧
    read1 [0b10011101, 0x9C, 0x03] = some (.staAbx 0x039C) ∧
    read1 [0b10011001, 0x9C, 0x03] = some (.staAby 0x039C) ∧
    read1 [0b10000001, 0x9C] = some (.staIzx 0x9C) ∧
    read1 [0b10010001, 0x9C] = some (.staIzy 0x9C) := by decide +kernel

/-- The encodings of R134. -/
theorem test_decode_stx :
    read1 [0b10000110, 0x9C] = some (.stxZp0 0x9C) ∧
    read1 [0b10010110, 0x9C] = some (.stxZpy 0x9C) ∧
    read1 [0b10001110, 0x9C, 0x03] = some (.stxAbs 0x039C) := by decide +kernel

/-- The encodings of R135. -/
theorem test_decode_sty :
    read1 [0b10000100, 0x9C] = some (.styZp0 0x9C) ∧
    read1 [0b10010100, 0x9C] = some (.styZpx 0x9C) ∧
    read1 [0b10001100, 0x9C, 0x03] = some (.styAbs 0x039C) := by decide +kernel

/-- The encodings of R136. -/
theorem test_decode_tax :
    read1 [0b10101010] = some (.tax) := by decide +kernel

/-- The encodings of R137. -/
theorem test_decode_tay :
    read1 [0b10101000] = some (.tay) := by decide +kernel

/-- The encodings of R138. -/
theorem test_decode_txa :
    read1 [0b10001010] = some (.txa) := by decide +kernel

/-- The encodings of R139. -/
theorem test_decode_tya :
    read1 [0b10011000] = some (.tya) := by decide +kernel

/-- The encodings of R140. -/
theorem test_decode_tsx :
    read1 [0b10111010] = some (.tsx) := by decide +kernel

/-- The encodings of R141. -/
theorem test_decode_txs :
    read1 [0b10011010] = some (.txs) := by decide +kernel

/-- The encodings of R142. -/
theorem test_decode_pha :
    read1 [0b01001000] = some (.pha) := by decide +kernel

/-- The encodings of R143. -/
theorem test_decode_php :
    read1 [0b00001000] = some (.php) := by decide +kernel

/-- The encodings of R144. -/
theorem test_decode_pla :
    read1 [0b01101000] = some (.pla) := by decide +kernel

/-- The encodings of R145. -/
theorem test_decode_plp :
    read1 [0b00101000] = some (.plp) := by decide +kernel

/-- The encodings of R146. -/
theorem test_decode_and :
    read1 [0b00101001, 0x9C] = some (.andImm 0x9C) ∧
    read1 [0b00100101, 0x9C] = some (.andZp0 0x9C) ∧
    read1 [0b00110101, 0x9C] = some (.andZpx 0x9C) ∧
    read1 [0b00101101, 0x9C, 0x03] = some (.andAbs 0x039C) ∧
    read1 [0b00111101, 0x9C, 0x03] = some (.andAbx 0x039C) ∧
    read1 [0b00111001, 0x9C, 0x03] = some (.andAby 0x039C) ∧
    read1 [0b00100001, 0x9C] = some (.andIzx 0x9C) ∧
    read1 [0b00110001, 0x9C] = some (.andIzy 0x9C) := by decide +kernel

/-- The encodings of R147. -/
theorem test_decode_ora :
    read1 [0b00001001, 0x9C] = some (.oraImm 0x9C) ∧
    read1 [0b00000101, 0x9C] = some (.oraZp0 0x9C) ∧
    read1 [0b00010101, 0x9C] = some (.oraZpx 0x9C) ∧
    read1 [0b00001101, 0x9C, 0x03] = some (.oraAbs 0x039C) ∧
    read1 [0b00011101, 0x9C, 0x03] = some (.oraAbx 0x039C) ∧
    read1 [0b00011001, 0x9C, 0x03] = some (.oraAby 0x039C) ∧
    read1 [0b00000001, 0x9C] = some (.oraIzx 0x9C) ∧
    read1 [0b00010001, 0x9C] = some (.oraIzy 0x9C) := by decide +kernel

/-- The encodings of R148. -/
theorem test_decode_eor :
    read1 [0b01001001, 0x9C] = some (.eorImm 0x9C) ∧
    read1 [0b01000101, 0x9C] = some (.eorZp0 0x9C) ∧
    read1 [0b01010101, 0x9C] = some (.eorZpx 0x9C) ∧
    read1 [0b01001101, 0x9C, 0x03] = some (.eorAbs 0x039C) ∧
    read1 [0b01011101, 0x9C, 0x03] = some (.eorAbx 0x039C) ∧
    read1 [0b01011001, 0x9C, 0x03] = some (.eorAby 0x039C) ∧
    read1 [0b01000001, 0x9C] = some (.eorIzx 0x9C) ∧
    read1 [0b01010001, 0x9C] = some (.eorIzy 0x9C) := by decide +kernel

/-- The encodings of R149. -/
theorem test_decode_bit :
    read1 [0b00100100, 0x9C] = some (.bitZp0 0x9C) ∧
    read1 [0b00101100, 0x9C, 0x03] = some (.bitAbs 0x039C) := by decide +kernel

/-- The encodings of R150. -/
theorem test_decode_asl :
    read1 [0b00001010] = some (.aslAcc) ∧
    read1 [0b00000110, 0x9C] = some (.aslZp0 0x9C) ∧
    read1 [0b00010110, 0x9C] = some (.aslZpx 0x9C) ∧
    read1 [0b00001110, 0x9C, 0x03] = some (.aslAbs 0x039C) ∧
    read1 [0b00011110, 0x9C, 0x03] = some (.aslAbx 0x039C) := by decide +kernel

/-- The encodings of R151. -/
theorem test_decode_lsr :
    read1 [0b01001010] = some (.lsrAcc) ∧
    read1 [0b01000110, 0x9C] = some (.lsrZp0 0x9C) ∧
    read1 [0b01010110, 0x9C] = some (.lsrZpx 0x9C) ∧
    read1 [0b01001110, 0x9C, 0x03] = some (.lsrAbs 0x039C) ∧
    read1 [0b01011110, 0x9C, 0x03] = some (.lsrAbx 0x039C) := by decide +kernel

/-- The encodings of R152. -/
theorem test_decode_rol :
    read1 [0b00101010] = some (.rolAcc) ∧
    read1 [0b00100110, 0x9C] = some (.rolZp0 0x9C) ∧
    read1 [0b00110110, 0x9C] = some (.rolZpx 0x9C) ∧
    read1 [0b00101110, 0x9C, 0x03] = some (.rolAbs 0x039C) ∧
    read1 [0b00111110, 0x9C, 0x03] = some (.rolAbx 0x039C) := by decide +kernel

/-- The encodings of R153. -/
theorem test_decode_ror :
    read1 [0b01101010] = some (.rorAcc) ∧
    read1 [0b01100110, 0x9C] = some (.rorZp0 0x9C) ∧
    read1 [0b01110110, 0x9C] = some (.rorZpx 0x9C) ∧
    read1 [0b01101110, 0x9C, 0x03] = some (.rorAbs 0x039C) ∧
    read1 [0b01111110, 0x9C, 0x03] = some (.rorAbx 0x039C) := by decide +kernel

/-- The encodings of R154. -/
theorem test_decode_adc :
    read1 [0b01101001, 0x9C] = some (.adcImm 0x9C) ∧
    read1 [0b01100101, 0x9C] = some (.adcZp0 0x9C) ∧
    read1 [0b01110101, 0x9C] = some (.adcZpx 0x9C) ∧
    read1 [0b01101101, 0x9C, 0x03] = some (.adcAbs 0x039C) ∧
    read1 [0b01111101, 0x9C, 0x03] = some (.adcAbx 0x039C) ∧
    read1 [0b01111001, 0x9C, 0x03] = some (.adcAby 0x039C) ∧
    read1 [0b01100001, 0x9C] = some (.adcIzx 0x9C) ∧
    read1 [0b01110001, 0x9C] = some (.adcIzy 0x9C) := by decide +kernel

/-- The encodings of R155. -/
theorem test_decode_sbc :
    read1 [0b11101001, 0x9C] = some (.sbcImm 0x9C) ∧
    read1 [0b11100101, 0x9C] = some (.sbcZp0 0x9C) ∧
    read1 [0b11110101, 0x9C] = some (.sbcZpx 0x9C) ∧
    read1 [0b11101101, 0x9C, 0x03] = some (.sbcAbs 0x039C) ∧
    read1 [0b11111101, 0x9C, 0x03] = some (.sbcAbx 0x039C) ∧
    read1 [0b11111001, 0x9C, 0x03] = some (.sbcAby 0x039C) ∧
    read1 [0b11100001, 0x9C] = some (.sbcIzx 0x9C) ∧
    read1 [0b11110001, 0x9C] = some (.sbcIzy 0x9C) := by decide +kernel

/-- The encodings of R156. -/
theorem test_decode_cmp :
    read1 [0b11001001, 0x9C] = some (.cmpImm 0x9C) ∧
    read1 [0b11000101, 0x9C] = some (.cmpZp0 0x9C) ∧
    read1 [0b11010101, 0x9C] = some (.cmpZpx 0x9C) ∧
    read1 [0b11001101, 0x9C, 0x03] = some (.cmpAbs 0x039C) ∧
    read1 [0b11011101, 0x9C, 0x03] = some (.cmpAbx 0x039C) ∧
    read1 [0b11011001, 0x9C, 0x03] = some (.cmpAby 0x039C) ∧
    read1 [0b11000001, 0x9C] = some (.cmpIzx 0x9C) ∧
    read1 [0b11010001, 0x9C] = some (.cmpIzy 0x9C) := by decide +kernel

/-- The encodings of R157. -/
theorem test_decode_cpx :
    read1 [0b11100000, 0x9C] = some (.cpxImm 0x9C) ∧
    read1 [0b11100100, 0x9C] = some (.cpxZp0 0x9C) ∧
    read1 [0b11101100, 0x9C, 0x03] = some (.cpxAbs 0x039C) := by decide +kernel

/-- The encodings of R158. -/
theorem test_decode_cpy :
    read1 [0b11000000, 0x9C] = some (.cpyImm 0x9C) ∧
    read1 [0b11000100, 0x9C] = some (.cpyZp0 0x9C) ∧
    read1 [0b11001100, 0x9C, 0x03] = some (.cpyAbs 0x039C) := by decide +kernel

/-- The encodings of R159. -/
theorem test_decode_inc :
    read1 [0b11100110, 0x9C] = some (.incZp0 0x9C) ∧
    read1 [0b11110110, 0x9C] = some (.incZpx 0x9C) ∧
    read1 [0b11101110, 0x9C, 0x03] = some (.incAbs 0x039C) ∧
    read1 [0b11111110, 0x9C, 0x03] = some (.incAbx 0x039C) := by decide +kernel

/-- The encodings of R160. -/
theorem test_decode_dec :
    read1 [0b11000110, 0x9C] = some (.decZp0 0x9C) ∧
    read1 [0b11010110, 0x9C] = some (.decZpx 0x9C) ∧
    read1 [0b11001110, 0x9C, 0x03] = some (.decAbs 0x039C) ∧
    read1 [0b11011110, 0x9C, 0x03] = some (.decAbx 0x039C) := by decide +kernel

/-- The encodings of R161. -/
theorem test_decode_inx :
    read1 [0b11101000] = some (.inx) := by decide +kernel

/-- The encodings of R162. -/
theorem test_decode_iny :
    read1 [0b11001000] = some (.iny) := by decide +kernel

/-- The encodings of R163. -/
theorem test_decode_dex :
    read1 [0b11001010] = some (.dex) := by decide +kernel

/-- The encodings of R164. -/
theorem test_decode_dey :
    read1 [0b10001000] = some (.dey) := by decide +kernel

/-- The encodings of R165. -/
theorem test_decode_bpl :
    read1 [0b00010000, 0x9C] = some (.bpl 0x9C) := by decide +kernel

/-- The encodings of R166. -/
theorem test_decode_bmi :
    read1 [0b00110000, 0x9C] = some (.bmi 0x9C) := by decide +kernel

/-- The encodings of R167. -/
theorem test_decode_bvc :
    read1 [0b01010000, 0x9C] = some (.bvc 0x9C) := by decide +kernel

/-- The encodings of R168. -/
theorem test_decode_bvs :
    read1 [0b01110000, 0x9C] = some (.bvs 0x9C) := by decide +kernel

/-- The encodings of R169. -/
theorem test_decode_bcc :
    read1 [0b10010000, 0x9C] = some (.bcc 0x9C) := by decide +kernel

/-- The encodings of R170. -/
theorem test_decode_bcs :
    read1 [0b10110000, 0x9C] = some (.bcs 0x9C) := by decide +kernel

/-- The encodings of R171. -/
theorem test_decode_bne :
    read1 [0b11010000, 0x9C] = some (.bne 0x9C) := by decide +kernel

/-- The encodings of R172. -/
theorem test_decode_beq :
    read1 [0b11110000, 0x9C] = some (.beq 0x9C) := by decide +kernel

/-- The encodings of R173. -/
theorem test_decode_jmp :
    read1 [0b01001100, 0x9C, 0x03] = some (.jmpAbs 0x039C) ∧
    read1 [0b01101100, 0x9C, 0x03] = some (.jmpInd 0x039C) := by decide +kernel

/-- The encodings of R174. -/
theorem test_decode_jsr :
    read1 [0b00100000, 0x9C, 0x03] = some (.jsr 0x039C) := by decide +kernel

/-- The encodings of R175. -/
theorem test_decode_rts :
    read1 [0b01100000] = some (.rts) := by decide +kernel

/-- The encodings of R176. -/
theorem test_decode_brk :
    read1 [0b00000000] = some (.brk) := by decide +kernel

/-- The encodings of R177. -/
theorem test_decode_rti :
    read1 [0b01000000] = some (.rti) := by decide +kernel

/-- The encodings of R178. -/
theorem test_decode_clc :
    read1 [0b00011000] = some (.clc) := by decide +kernel

/-- The encodings of R179. -/
theorem test_decode_sec :
    read1 [0b00111000] = some (.sec) := by decide +kernel

/-- The encodings of R180. -/
theorem test_decode_cli :
    read1 [0b01011000] = some (.cli) := by decide +kernel

/-- The encodings of R181. -/
theorem test_decode_sei :
    read1 [0b01111000] = some (.sei) := by decide +kernel

/-- The encodings of R182. -/
theorem test_decode_cld :
    read1 [0b11011000] = some (.cld) := by decide +kernel

/-- The encodings of R183. -/
theorem test_decode_sed :
    read1 [0b11111000] = some (.sed) := by decide +kernel

/-- The encodings of R184. -/
theorem test_decode_clv :
    read1 [0b10111000] = some (.clv) := by decide +kernel

/-- The encodings of R185. -/
theorem test_decode_nop :
    read1 [0b11101010] = some (.nop) := by decide +kernel

/-! ## One instruction at a time -/

/-- P from its byte, with stored B taken from bit 4. -/
def flagsOf (p : Byte) : Flags := { Flags.ofPulled p with b := p.getLsbD 4 }

/-- Bytes placed in memory. -/
def cellsOf (bytes : List (Word × Byte)) : List Host.Cell :=
  bytes.foldl (fun cells e => cellsWrite e.1.toNat e.2 cells) []

/-- An external bus a vector takes to be a flat RAM (the premises of 95_test_vectors). -/
def flatRam (bytes : List (Word × Byte)) : Bus := { cells := cellsOf bytes, regions := [⟨0x0000, 0xFFFF, .ram⟩] }

/-- A machine at a boundary whose next call is the CPU's, with the registers and memory of a vector's start column. -/
def machine (a x y sp p : Byte) (pc : Word) (bytes : List (Word × Byte)) : State :=
  { State.reset with
    cpu := { a := a, x := x, y := y, sp := sp, p := flagsOf p, pc := pc, cycles := 0, resetDone := true }
    ext := flatRam bytes
    loop := [.cpuClock] }

/-- What a vector's end column names: the registers, the number of calls, the writes in order. -/
structure After where
  a : Byte
  x : Byte
  y : Byte
  sp : Byte
  p : Byte
  pc : Word
  calls : Nat
  writes : List (Word × Byte)
  deriving DecidableEq, Repr

/-- The write an event is, if it is one. -/
def writeOf : IoEvent → Option (Word × Byte)
  | .cpuWrite a d => some (a, d)
  | .cpuRead _ _ => none
  | .ppuRead _ _ => none
  | .ppuWrite _ _ => none
  | .portRead _ _ => none
  | .pixel _ _ _ => none
  | .greyscale _ => none

/-- The end of a vector: what one step leaves. The begin call has made the first of the calls already. -/
def after (s : State) : Option After :=
  match step s with
  | .next t =>
    some ⟨t.cpu.a, t.cpu.x, t.cpu.y, t.cpu.sp, t.cpu.p.toByte, t.cpu.pc, t.cpu.cycles + 1, t.io.filterMap writeOf⟩
  | .fault _ => none
  | .refused _ => none

/-! L2-AM of spec/95_test_vectors.md: addressing modes. -/

theorem test_ldaZp0_am1 :
    after (machine 0x00 0x00 0x00 0xFD 0x24 0x8000 [(0x8000, 0xA5), (0x8001, 0x10), (0x0010, 0x37)])
      = some ⟨0x37, 0x00, 0x00, 0xFD, 0x24, 0x8002, 3, []⟩ := by decide +kernel

theorem test_ldaZpx_am2 :
    after (machine 0x00 0x20 0x00 0xFD 0x24 0x8000 [(0x8000, 0xB5), (0x8001, 0xF0), (0x0010, 0x99), (0x0110, 0x11)])
      = some ⟨0x99, 0x20, 0x00, 0xFD, 0xA4, 0x8002, 4, []⟩ := by decide +kernel

theorem test_ldxZpy_am3 :
    after (machine 0x00 0x00 0x01 0xFD 0x24 0x8000 [(0x8000, 0xB6), (0x8001, 0xFF), (0x0000, 0x42)])
      = some ⟨0x00, 0x42, 0x01, 0xFD, 0x24, 0x8002, 4, []⟩ := by decide +kernel

theorem test_ldaAbs_am4 :
    after (machine 0x00 0x00 0x00 0xFD 0x24 0x8000 [(0x8000, 0xAD), (0x8001, 0x34), (0x8002, 0x12), (0x1234, 0x01)])
      = some ⟨0x01, 0x00, 0x00, 0xFD, 0x24, 0x8003, 4, []⟩ := by decide +kernel

theorem test_ldaAbx_am5 :
    after (machine 0x00 0x20 0x00 0xFD 0x24 0x8000 [(0x8000, 0xBD), (0x8001, 0xF0), (0x8002, 0x12), (0x1310, 0x80)])
      = some ⟨0x80, 0x20, 0x00, 0xFD, 0xA4, 0x8003, 5, []⟩ := by decide +kernel

theorem test_ldaAbx_am6 :
    after (machine 0x00 0x01 0x00 0xFD 0x24 0x8000 [(0x8000, 0xBD), (0x8001, 0xFF), (0x8002, 0xFF), (0x0000, 0x05)])
      = some ⟨0x05, 0x01, 0x00, 0xFD, 0x24, 0x8003, 5, []⟩ := by decide +kernel

theorem test_ldaAby_am7 :
    after (machine 0x00 0x00 0xFF 0xFD 0x24 0x8000 [(0x8000, 0xB9), (0x8001, 0x00), (0x8002, 0x02), (0x02FF, 0x00)])
      = some ⟨0x00, 0x00, 0xFF, 0xFD, 0x26, 0x8003, 4, []⟩ := by decide +kernel

theorem test_jmpInd_am8 :
    after (machine 0x00 0x00 0x00 0xFD 0x24 0x8000 [(0x8000, 0x6C), (0x8001, 0xFF), (0x8002, 0x02), (0x0200, 0x12), (0x02FF, 0x34), (0x0300, 0x99)])
      = some ⟨0x00, 0x00, 0x00, 0xFD, 0x24, 0x1234, 5, []⟩ := by decide +kernel

theorem test_ldaIzx_am9 :
    after (machine 0x00 0x01 0x00 0xFD 0x24 0x8000 [(0x8000, 0xA1), (0x8001, 0xFE), (0x0000, 0x03), (0x00FF, 0x00), (0x0300, 0x5A)])
      = some ⟨0x5A, 0x01, 0x00, 0xFD, 0x24, 0x8002, 6, []⟩ := by decide +kernel

theorem test_ldaIzy_am10 :
    after (machine 0x00 0x00 0x10 0xFD 0x24 0x8000 [(0x8000, 0xB1), (0x8001, 0x20), (0x0020, 0xF0), (0x0021, 0x02), (0x0300, 0x77)])
      = some ⟨0x77, 0x00, 0x10, 0xFD, 0x24, 0x8002, 6, []⟩ := by decide +kernel

theorem test_ldaIzy_am11 :
    after (machine 0x00 0x00 0x00 0xFD 0x24 0x8000 [(0x8000, 0xB1), (0x8001, 0xFF), (0x0000, 0x04), (0x00FF, 0x00), (0x0400, 0x66)])
      = some ⟨0x66, 0x00, 0x00, 0xFD, 0x24, 0x8002, 5, []⟩ := by decide +kernel

theorem test_ldaImm_am12 :
    after (machine 0x00 0x00 0x00 0xFD 0x24 0x8000 [(0x8000, 0xA9), (0x8001, 0x7F)])
      = some ⟨0x7F, 0x00, 0x00, 0xFD, 0x24, 0x8002, 2, []⟩ := by decide +kernel

theorem test_bne_am13 :
    after (machine 0x00 0x00 0x00 0xFD 0x24 0x0603 [(0x0603, 0xD0), (0x0604, 0xFB)])
      = some ⟨0x00, 0x00, 0x00, 0xFD, 0x24, 0x0600, 3, []⟩ := by decide +kernel

theorem test_beq_am14 :
    after (machine 0x00 0x00 0x00 0xFD 0x26 0xFFF0 [(0xFFF0, 0xF0), (0xFFF1, 0x7F)])
      = some ⟨0x00, 0x00, 0x00, 0xFD, 0x26, 0x0071, 4, []⟩ := by decide +kernel

theorem test_inx_am15 :
    after (machine 0x00 0x00 0x00 0xFD 0x24 0x8000 [(0x8000, 0xE8)])
      = some ⟨0x00, 0x01, 0x00, 0xFD, 0x24, 0x8001, 2, []⟩ := by decide +kernel

theorem test_aslAcc_am16 :
    after (machine 0x81 0x00 0x00 0xFD 0x24 0x8000 [(0x8000, 0x0A)])
      = some ⟨0x02, 0x00, 0x00, 0xFD, 0x25, 0x8001, 2, []⟩ := by decide +kernel

/-! L2-LS of spec/95_test_vectors.md: load, store, transfer. -/

theorem test_ldaImm_ls1 :
    after (machine 0x55 0x00 0x00 0xFD 0x24 0x8000 [(0x8000, 0xA9), (0x8001, 0x00)])
      = some ⟨0x00, 0x00, 0x00, 0xFD, 0x26, 0x8002, 2, []⟩ := by decide +kernel

theorem test_ldxImm_ls4 :
    after (machine 0x00 0x00 0x00 0xFD 0x24 0x8000 [(0x8000, 0xA2), (0x8001, 0xFF)])
      = some ⟨0x00, 0xFF, 0x00, 0xFD, 0xA4, 0x8002, 2, []⟩ := by decide +kernel

theorem test_ldxAby_ls5 :
    after (machine 0x00 0x00 0xFF 0xFD 0x24 0x8000 [(0x8000, 0xBE), (0x8001, 0x01), (0x8002, 0x02), (0x0300, 0x00)])
      = some ⟨0x00, 0x00, 0xFF, 0xFD, 0x26, 0x8003, 5, []⟩ := by decide +kernel

theorem test_ldyAbx_ls6 :
    after (machine 0x00 0x10 0x00 0xFD 0x24 0x8000 [(0x8000, 0xBC), (0x8001, 0xF0), (0x8002, 0x02), (0x0300, 0x7F)])
      = some ⟨0x00, 0x10, 0x7F, 0xFD, 0x24, 0x8003, 5, []⟩ := by decide +kernel

theorem test_staAbs_ls7 :
    after (machine 0x42 0x00 0x00 0xFD 0x24 0x8000 [(0x8000, 0x8D), (0x8001, 0x00), (0x8002, 0x02)])
      = some ⟨0x42, 0x00, 0x00, 0xFD, 0x24, 0x8003, 4, [(0x0200, 0x42)]⟩ := by decide +kernel

theorem test_staAbx_ls8 :
    after (machine 0x42 0x20 0x00 0xFD 0x24 0x8000 [(0x8000, 0x9D), (0x8001, 0xF0), (0x8002, 0x02)])
      = some ⟨0x42, 0x20, 0x00, 0xFD, 0x24, 0x8003, 5, [(0x0310, 0x42)]⟩ := by decide +kernel

theorem test_staIzy_ls9 :
    after (machine 0x0C 0x00 0x10 0xFD 0x24 0x8000 [(0x8000, 0x91), (0x8001, 0x20), (0x0020, 0xF0), (0x0021, 0x02)])
      = some ⟨0x0C, 0x00, 0x10, 0xFD, 0x24, 0x8002, 6, [(0x0300, 0x0C)]⟩ := by decide +kernel

theorem test_stxZpy_ls10 :
    after (machine 0x00 0x07 0x02 0xFD 0x24 0x8000 [(0x8000, 0x96), (0x8001, 0xFF)])
      = some ⟨0x00, 0x07, 0x02, 0xFD, 0x24, 0x8002, 4, [(0x0001, 0x07)]⟩ := by decide +kernel

theorem test_styAbs_ls11 :
    after (machine 0x00 0x00 0x09 0xFD 0x24 0x8000 [(0x8000, 0x8C), (0x8001, 0x00), (0x8002, 0x03)])
      = some ⟨0x00, 0x00, 0x09, 0xFD, 0x24, 0x8003, 4, [(0x0300, 0x09)]⟩ := by decide +kernel

theorem test_tax_ls12 :
    after (machine 0x80 0x00 0x00 0xFD 0x24 0x8000 [(0x8000, 0xAA)])
      = some ⟨0x80, 0x80, 0x00, 0xFD, 0xA4, 0x8001, 2, []⟩ := by decide +kernel

theorem test_tay_ls13 :
    after (machine 0x00 0x00 0x33 0xFD 0x24 0x8000 [(0x8000, 0xA8)])
      = some ⟨0x00, 0x00, 0x00, 0xFD, 0x26, 0x8001, 2, []⟩ := by decide +kernel

theorem test_txa_ls14 :
    after (machine 0xFF 0x01 0x00 0xFD 0x24 0x8000 [(0x8000, 0x8A)])
      = some ⟨0x01, 0x01, 0x00, 0xFD, 0x24, 0x8001, 2, []⟩ := by decide +kernel

theorem test_tya_ls15 :
    after (machine 0x00 0x00 0xFE 0xFD 0x24 0x8000 [(0x8000, 0x98)])
      = some ⟨0xFE, 0x00, 0xFE, 0xFD, 0xA4, 0x8001, 2, []⟩ := by decide +kernel

theorem test_tsx_ls16 :
    after (machine 0x00 0x00 0x00 0xFD 0x24 0x8000 [(0x8000, 0xBA)])
      = some ⟨0x00, 0xFD, 0x00, 0xFD, 0xA4, 0x8001, 2, []⟩ := by decide +kernel

theorem test_txs_ls17 :
    after (machine 0x00 0x00 0x00 0xFD 0xA4 0x8000 [(0x8000, 0x9A)])
      = some ⟨0x00, 0x00, 0x00, 0x00, 0xA4, 0x8001, 2, []⟩ := by decide +kernel

/-! L2-ST of spec/95_test_vectors.md: stack. -/

theorem test_pha_st1 :
    after (machine 0x5A 0x00 0x00 0xFD 0x24 0x8000 [(0x8000, 0x48)])
      = some ⟨0x5A, 0x00, 0x00, 0xFC, 0x24, 0x8001, 3, [(0x01FD, 0x5A)]⟩ := by decide +kernel

theorem test_pha_st2 :
    after (machine 0x11 0x00 0x00 0x00 0x24 0x8000 [(0x8000, 0x48)])
      = some ⟨0x11, 0x00, 0x00, 0xFF, 0x24, 0x8001, 3, [(0x0100, 0x11)]⟩ := by decide +kernel

theorem test_php_st3 :
    after (machine 0x00 0x00 0x00 0xFD 0x24 0x8000 [(0x8000, 0x08)])
      = some ⟨0x00, 0x00, 0x00, 0xFC, 0x24, 0x8001, 3, [(0x01FD, 0x34)]⟩ := by decide +kernel

theorem test_php_st4 :
    after (machine 0x00 0x00 0x00 0xFD 0xE7 0x8000 [(0x8000, 0x08)])
      = some ⟨0x00, 0x00, 0x00, 0xFC, 0xE7, 0x8001, 3, [(0x01FD, 0xF7)]⟩ := by decide +kernel

theorem test_pla_st5 :
    after (machine 0x00 0x00 0x00 0xFC 0x24 0x8000 [(0x8000, 0x68), (0x01FD, 0x80)])
      = some ⟨0x80, 0x00, 0x00, 0xFD, 0xA4, 0x8001, 4, []⟩ := by decide +kernel

theorem test_pla_st6 :
    after (machine 0x12 0x00 0x00 0xFF 0x24 0x8000 [(0x8000, 0x68), (0x0100, 0x00)])
      = some ⟨0x00, 0x00, 0x00, 0x00, 0x26, 0x8001, 4, []⟩ := by decide +kernel

theorem test_plp_st7 :
    after (machine 0x00 0x00 0x00 0xFC 0x24 0x8000 [(0x8000, 0x28), (0x01FD, 0xFF)])
      = some ⟨0x00, 0x00, 0x00, 0xFD, 0xEF, 0x8001, 4, []⟩ := by decide +kernel

theorem test_plp_st8 :
    after (machine 0x00 0x00 0x00 0xFC 0xFF 0x8000 [(0x8000, 0x28), (0x01FD, 0x00)])
      = some ⟨0x00, 0x00, 0x00, 0xFD, 0x20, 0x8001, 4, []⟩ := by decide +kernel

/-! L2-LG of spec/95_test_vectors.md: logic, shifts. -/

theorem test_andImm_lg1 :
    after (machine 0xF0 0x00 0x00 0xFD 0x24 0x8000 [(0x8000, 0x29), (0x8001, 0x3C)])
      = some ⟨0x30, 0x00, 0x00, 0xFD, 0x24, 0x8002, 2, []⟩ := by decide +kernel

theorem test_andImm_lg2 :
    after (machine 0xFF 0x00 0x00 0xFD 0x24 0x8000 [(0x8000, 0x29), (0x8001, 0x00)])
      = some ⟨0x00, 0x00, 0x00, 0xFD, 0x26, 0x8002, 2, []⟩ := by decide +kernel

theorem test_oraImm_lg3 :
    after (machine 0x01 0x00 0x00 0xFD 0x24 0x8000 [(0x8000, 0x09), (0x8001, 0x80)])
      = some ⟨0x81, 0x00, 0x00, 0xFD, 0xA4, 0x8002, 2, []⟩ := by decide +kernel

theorem test_eorImm_lg4 :
    after (machine 0x0F 0x00 0x00 0xFD 0x24 0x8000 [(0x8000, 0x49), (0x8001, 0xFF)])
      = some ⟨0xF0, 0x00, 0x00, 0xFD, 0xA4, 0x8002, 2, []⟩ := by decide +kernel

theorem test_eorZp0_lg5 :
    after (machine 0x3C 0x00 0x00 0xFD 0x24 0x8000 [(0x8000, 0x45), (0x8001, 0x10), (0x0010, 0x3C)])
      = some ⟨0x00, 0x00, 0x00, 0xFD, 0x26, 0x8002, 3, []⟩ := by decide +kernel

theorem test_bitZp0_lg6 :
    after (machine 0x01 0x00 0x00 0xFD 0x24 0x8000 [(0x8000, 0x24), (0x8001, 0x10), (0x0010, 0xC0)])
      = some ⟨0x01, 0x00, 0x00, 0xFD, 0xE6, 0x8002, 3, []⟩ := by decide +kernel

theorem test_bitAbs_lg7 :
    after (machine 0xFF 0x00 0x00 0xFD 0xE4 0x8000 [(0x8000, 0x2C), (0x8001, 0x00), (0x8002, 0x02), (0x0200, 0x3F)])
      = some ⟨0xFF, 0x00, 0x00, 0xFD, 0x24, 0x8003, 4, []⟩ := by decide +kernel

theorem test_aslAcc_lg8 :
    after (machine 0x80 0x00 0x00 0xFD 0x24 0x8000 [(0x8000, 0x0A)])
      = some ⟨0x00, 0x00, 0x00, 0xFD, 0x27, 0x8001, 2, []⟩ := by decide +kernel

theorem test_aslZp0_lg9 :
    after (machine 0x00 0x00 0x00 0xFD 0x25 0x8000 [(0x8000, 0x06), (0x8001, 0x10), (0x0010, 0x41)])
      = some ⟨0x00, 0x00, 0x00, 0xFD, 0xA4, 0x8002, 5, [(0x0010, 0x82)]⟩ := by decide +kernel

theorem test_aslAbx_lg10 :
    after (machine 0x00 0x20 0x00 0xFD 0x24 0x8000 [(0x8000, 0x1E), (0x8001, 0xF0), (0x8002, 0x02), (0x0310, 0x01)])
      = some ⟨0x00, 0x20, 0x00, 0xFD, 0x24, 0x8003, 7, [(0x0310, 0x02)]⟩ := by decide +kernel

theorem test_lsrAcc_lg11 :
    after (machine 0x01 0x00 0x00 0xFD 0x24 0x8000 [(0x8000, 0x4A)])
      = some ⟨0x00, 0x00, 0x00, 0xFD, 0x27, 0x8001, 2, []⟩ := by decide +kernel

theorem test_lsrZp0_lg12 :
    after (machine 0x00 0x00 0x00 0xFD 0x24 0x8000 [(0x8000, 0x46), (0x8001, 0x10), (0x0010, 0xFF)])
      = some ⟨0x00, 0x00, 0x00, 0xFD, 0x25, 0x8002, 5, [(0x0010, 0x7F)]⟩ := by decide +kernel

theorem test_rolAcc_lg13 :
    after (machine 0x80 0x00 0x00 0xFD 0x24 0x8000 [(0x8000, 0x2A)])
      = some ⟨0x00, 0x00, 0x00, 0xFD, 0x27, 0x8001, 2, []⟩ := by decide +kernel

theorem test_rolZp0_lg14 :
    after (machine 0x00 0x00 0x00 0xFD 0x25 0x8000 [(0x8000, 0x26), (0x8001, 0x10), (0x0010, 0x40)])
      = some ⟨0x00, 0x00, 0x00, 0xFD, 0xA4, 0x8002, 5, [(0x0010, 0x81)]⟩ := by decide +kernel

theorem test_rorAcc_lg15 :
    after (machine 0x01 0x00 0x00 0xFD 0x25 0x8000 [(0x8000, 0x6A)])
      = some ⟨0x80, 0x00, 0x00, 0xFD, 0xA5, 0x8001, 2, []⟩ := by decide +kernel

theorem test_rorZp0_lg16 :
    after (machine 0x00 0x00 0x00 0xFD 0x24 0x8000 [(0x8000, 0x66), (0x8001, 0x10), (0x0010, 0x01)])
      = some ⟨0x00, 0x00, 0x00, 0xFD, 0x27, 0x8002, 5, [(0x0010, 0x00)]⟩ := by decide +kernel

/-! L2-AR of spec/95_test_vectors.md: arithmetic, compare, increment. -/

theorem test_adcImm_ar1 :
    after (machine 0x7F 0x00 0x00 0xFD 0x24 0x8000 [(0x8000, 0x69), (0x8001, 0x01)])
      = some ⟨0x80, 0x00, 0x00, 0xFD, 0xE4, 0x8002, 2, []⟩ := by decide +kernel

theorem test_adcImm_ar2 :
    after (machine 0xFF 0x00 0x00 0xFD 0x25 0x8000 [(0x8000, 0x69), (0x8001, 0x00)])
      = some ⟨0x00, 0x00, 0x00, 0xFD, 0x27, 0x8002, 2, []⟩ := by decide +kernel

theorem test_adcAby_ar6 :
    after (machine 0x01 0x00 0xFF 0xFD 0x24 0x8000 [(0x8000, 0x79), (0x8001, 0x01), (0x8002, 0x02), (0x0300, 0x01)])
      = some ⟨0x02, 0x00, 0xFF, 0xFD, 0x24, 0x8003, 5, []⟩ := by decide +kernel

theorem test_sbcImm_ar7 :
    after (machine 0xFE 0x00 0x00 0xFD 0x25 0x8000 [(0x8000, 0xE9), (0x8001, 0x7F)])
      = some ⟨0x7F, 0x00, 0x00, 0xFD, 0x65, 0x8002, 2, []⟩ := by decide +kernel

theorem test_sbcImm_ar9 :
    after (machine 0x00 0x00 0x00 0xFD 0x25 0x8000 [(0x8000, 0xE9), (0x8001, 0x01)])
      = some ⟨0xFF, 0x00, 0x00, 0xFD, 0xA4, 0x8002, 2, []⟩ := by decide +kernel

theorem test_sbcZp0_ar11 :
    after (machine 0x42 0x00 0x00 0xFD 0x25 0x8000 [(0x8000, 0xE5), (0x8001, 0x10), (0x0010, 0x42)])
      = some ⟨0x00, 0x00, 0x00, 0xFD, 0x27, 0x8002, 3, []⟩ := by decide +kernel

theorem test_cmpImm_ar12 :
    after (machine 0x10 0x00 0x00 0xFD 0x24 0x8000 [(0x8000, 0xC9), (0x8001, 0x20)])
      = some ⟨0x10, 0x00, 0x00, 0xFD, 0xA4, 0x8002, 2, []⟩ := by decide +kernel

theorem test_cmpImm_ar13 :
    after (machine 0x10 0x00 0x00 0xFD 0x24 0x8000 [(0x8000, 0xC9), (0x8001, 0x10)])
      = some ⟨0x10, 0x00, 0x00, 0xFD, 0x27, 0x8002, 2, []⟩ := by decide +kernel

theorem test_cpxImm_ar16 :
    after (machine 0x00 0x05 0x00 0xFD 0x24 0x8000 [(0x8000, 0xE0), (0x8001, 0x05)])
      = some ⟨0x00, 0x05, 0x00, 0xFD, 0x27, 0x8002, 2, []⟩ := by decide +kernel

theorem test_cpyImm_ar17 :
    after (machine 0x00 0x00 0x00 0xFD 0x24 0x8000 [(0x8000, 0xC0), (0x8001, 0x01)])
      = some ⟨0x00, 0x00, 0x00, 0xFD, 0xA4, 0x8002, 2, []⟩ := by decide +kernel

theorem test_incZp0_ar18 :
    after (machine 0x00 0x00 0x00 0xFD 0x24 0x8000 [(0x8000, 0xE6), (0x8001, 0x10), (0x0010, 0xFF)])
      = some ⟨0x00, 0x00, 0x00, 0xFD, 0x26, 0x8002, 5, [(0x0010, 0x00)]⟩ := by decide +kernel

theorem test_incAbx_ar19 :
    after (machine 0x00 0x01 0x00 0xFD 0x24 0x8000 [(0x8000, 0xFE), (0x8001, 0xFF), (0x8002, 0x02), (0x0300, 0x7F)])
      = some ⟨0x00, 0x01, 0x00, 0xFD, 0xA4, 0x8003, 7, [(0x0300, 0x80)]⟩ := by decide +kernel

theorem test_decAbs_ar20 :
    after (machine 0x00 0x00 0x00 0xFD 0x24 0x8000 [(0x8000, 0xCE), (0x8001, 0x00), (0x8002, 0x03), (0x0300, 0x00)])
      = some ⟨0x00, 0x00, 0x00, 0xFD, 0xA4, 0x8003, 6, [(0x0300, 0xFF)]⟩ := by decide +kernel

theorem test_inx_ar21 :
    after (machine 0x00 0xFF 0x00 0xFD 0x24 0x8000 [(0x8000, 0xE8)])
      = some ⟨0x00, 0x00, 0x00, 0xFD, 0x26, 0x8001, 2, []⟩ := by decide +kernel

theorem test_iny_ar22 :
    after (machine 0x00 0x00 0x7F 0xFD 0x24 0x8000 [(0x8000, 0xC8)])
      = some ⟨0x00, 0x00, 0x80, 0xFD, 0xA4, 0x8001, 2, []⟩ := by decide +kernel

theorem test_dex_ar23 :
    after (machine 0x00 0x00 0x00 0xFD 0x24 0x8000 [(0x8000, 0xCA)])
      = some ⟨0x00, 0xFF, 0x00, 0xFD, 0xA4, 0x8001, 2, []⟩ := by decide +kernel

theorem test_dey_ar24 :
    after (machine 0x00 0x00 0x01 0xFD 0x24 0x8000 [(0x8000, 0x88)])
      = some ⟨0x00, 0x00, 0x00, 0xFD, 0x26, 0x8001, 2, []⟩ := by decide +kernel

/-! L2-CT of spec/95_test_vectors.md: control transfer. -/

theorem test_bpl_ct1 :
    after (machine 0x00 0x00 0x00 0xFD 0x24 0x8000 [(0x8000, 0x10), (0x8001, 0x02)])
      = some ⟨0x00, 0x00, 0x00, 0xFD, 0x24, 0x8004, 3, []⟩ := by decide +kernel

theorem test_bmi_ct2 :
    after (machine 0x00 0x00 0x00 0xFD 0x24 0x8000 [(0x8000, 0x30), (0x8001, 0x10)])
      = some ⟨0x00, 0x00, 0x00, 0xFD, 0x24, 0x8002, 2, []⟩ := by decide +kernel

theorem test_bmi_ct3 :
    after (machine 0x00 0x00 0x00 0xFD 0xA4 0x8000 [(0x8000, 0x30), (0x8001, 0x10)])
      = some ⟨0x00, 0x00, 0x00, 0xFD, 0xA4, 0x8012, 3, []⟩ := by decide +kernel

theorem test_bvc_ct4 :
    after (machine 0x00 0x00 0x00 0xFD 0x24 0x8000 [(0x8000, 0x50), (0x8001, 0xFE)])
      = some ⟨0x00, 0x00, 0x00, 0xFD, 0x24, 0x8000, 3, []⟩ := by decide +kernel

theorem test_bvs_ct5 :
    after (machine 0x00 0x00 0x00 0xFD 0x64 0x80F0 [(0x80F0, 0x70), (0x80F1, 0x7F)])
      = some ⟨0x00, 0x00, 0x00, 0xFD, 0x64, 0x8171, 4, []⟩ := by decide +kernel

theorem test_bcc_ct6 :
    after (machine 0x00 0x00 0x00 0xFD 0x24 0x8000 [(0x8000, 0x90), (0x8001, 0x80)])
      = some ⟨0x00, 0x00, 0x00, 0xFD, 0x24, 0x7F82, 4, []⟩ := by decide +kernel

theorem test_bcs_ct7 :
    after (machine 0x00 0x00 0x00 0xFD 0x25 0x8000 [(0x8000, 0xB0), (0x8001, 0x04)])
      = some ⟨0x00, 0x00, 0x00, 0xFD, 0x25, 0x8006, 3, []⟩ := by decide +kernel

theorem test_bcs_ct8 :
    after (machine 0x00 0x00 0x00 0xFD 0x24 0x8000 [(0x8000, 0xB0), (0x8001, 0x04)])
      = some ⟨0x00, 0x00, 0x00, 0xFD, 0x24, 0x8002, 2, []⟩ := by decide +kernel

theorem test_bne_ct9 :
    after (machine 0x00 0x00 0x00 0xFD 0x24 0x8000 [(0x8000, 0xD0), (0x8001, 0x00)])
      = some ⟨0x00, 0x00, 0x00, 0xFD, 0x24, 0x8002, 3, []⟩ := by decide +kernel

theorem test_beq_ct10 :
    after (machine 0x00 0x00 0x00 0xFD 0x26 0x80F0 [(0x80F0, 0xF0), (0x80F1, 0x0E)])
      = some ⟨0x00, 0x00, 0x00, 0xFD, 0x26, 0x8100, 4, []⟩ := by decide +kernel

theorem test_jmpAbs_ct11 :
    after (machine 0x00 0x00 0x00 0xFD 0x24 0x8000 [(0x8000, 0x4C), (0x8001, 0x00), (0x8002, 0xC0)])
      = some ⟨0x00, 0x00, 0x00, 0xFD, 0x24, 0xC000, 3, []⟩ := by decide +kernel

theorem test_jmpInd_ct12 :
    after (machine 0x00 0x00 0x00 0xFD 0x24 0x8000 [(0x8000, 0x6C), (0x8001, 0xFF), (0x8002, 0x10), (0x1000, 0x90), (0x10FF, 0x00), (0x1100, 0x55)])
      = some ⟨0x00, 0x00, 0x00, 0xFD, 0x24, 0x9000, 5, []⟩ := by decide +kernel

theorem test_jsr_ct13 :
    after (machine 0x00 0x00 0x00 0xFD 0x24 0x8000 [(0x8000, 0x20), (0x8001, 0x00), (0x8002, 0x90)])
      = some ⟨0x00, 0x00, 0x00, 0xFB, 0x24, 0x9000, 6, [(0x01FD, 0x80), (0x01FC, 0x02)]⟩ := by decide +kernel

theorem test_rts_ct14 :
    after (machine 0x00 0x00 0x00 0xFB 0x24 0x9000 [(0x9000, 0x60), (0x01FC, 0x02), (0x01FD, 0x80)])
      = some ⟨0x00, 0x00, 0x00, 0xFD, 0x24, 0x8003, 6, []⟩ := by decide +kernel

theorem test_rts_ct15 :
    after (machine 0x00 0x00 0x00 0xFB 0x24 0x8000 [(0x8000, 0x60), (0x01FC, 0xFF), (0x01FD, 0xFF)])
      = some ⟨0x00, 0x00, 0x00, 0xFD, 0x24, 0x0000, 6, []⟩ := by decide +kernel

theorem test_brk_ct16 :
    after (machine 0x00 0x00 0x00 0xFD 0x24 0x8000 [(0x8000, 0x00), (0xFFFE, 0x00), (0xFFFF, 0x90)])
      = some ⟨0x00, 0x00, 0x00, 0xFA, 0x34, 0x9000, 7, [(0x01FD, 0x80), (0x01FC, 0x02), (0x01FB, 0x34)]⟩ := by decide +kernel

theorem test_brk_ct17 :
    after (machine 0x00 0x00 0x00 0xFD 0x20 0x8000 [(0x8000, 0x00), (0xFFFE, 0x00), (0xFFFF, 0x90)])
      = some ⟨0x00, 0x00, 0x00, 0xFA, 0x34, 0x9000, 7, [(0x01FD, 0x80), (0x01FC, 0x02), (0x01FB, 0x30)]⟩ := by decide +kernel

theorem test_rti_ct18 :
    after (machine 0x00 0x00 0x00 0xFA 0x34 0x9000 [(0x9000, 0x40), (0x01FB, 0x34), (0x01FC, 0x02), (0x01FD, 0x80)])
      = some ⟨0x00, 0x00, 0x00, 0xFD, 0x24, 0x8002, 6, []⟩ := by decide +kernel

theorem test_rti_ct19 :
    after (machine 0x00 0x00 0x00 0xFA 0x24 0x9000 [(0x9000, 0x40), (0x01FB, 0xC3), (0x01FC, 0x34), (0x01FD, 0x12)])
      = some ⟨0x00, 0x00, 0x00, 0xFD, 0xE3, 0x1234, 6, []⟩ := by decide +kernel

/-! L2-FL of spec/95_test_vectors.md: flags, NOP. -/

theorem test_clc_fl1 :
    after (machine 0x00 0x00 0x00 0xFD 0x25 0x8000 [(0x8000, 0x18)])
      = some ⟨0x00, 0x00, 0x00, 0xFD, 0x24, 0x8001, 2, []⟩ := by decide +kernel

theorem test_sec_fl2 :
    after (machine 0x00 0x00 0x00 0xFD 0x24 0x8000 [(0x8000, 0x38)])
      = some ⟨0x00, 0x00, 0x00, 0xFD, 0x25, 0x8001, 2, []⟩ := by decide +kernel

theorem test_cli_fl3 :
    after (machine 0x00 0x00 0x00 0xFD 0x24 0x8000 [(0x8000, 0x58)])
      = some ⟨0x00, 0x00, 0x00, 0xFD, 0x20, 0x8001, 2, []⟩ := by decide +kernel

theorem test_sei_fl4 :
    after (machine 0x00 0x00 0x00 0xFD 0x20 0x8000 [(0x8000, 0x78)])
      = some ⟨0x00, 0x00, 0x00, 0xFD, 0x24, 0x8001, 2, []⟩ := by decide +kernel

theorem test_cld_fl5 :
    after (machine 0x00 0x00 0x00 0xFD 0x2C 0x8000 [(0x8000, 0xD8)])
      = some ⟨0x00, 0x00, 0x00, 0xFD, 0x24, 0x8001, 2, []⟩ := by decide +kernel

theorem test_sed_fl6 :
    after (machine 0x00 0x00 0x00 0xFD 0x24 0x8000 [(0x8000, 0xF8)])
      = some ⟨0x00, 0x00, 0x00, 0xFD, 0x2C, 0x8001, 2, []⟩ := by decide +kernel

theorem test_clv_fl7 :
    after (machine 0x00 0x00 0x00 0xFD 0x64 0x8000 [(0x8000, 0xB8)])
      = some ⟨0x00, 0x00, 0x00, 0xFD, 0x24, 0x8001, 2, []⟩ := by decide +kernel

theorem test_nop_fl8 :
    after (machine 0x00 0x00 0x00 0xFD 0x24 0x8000 [(0x8000, 0xEA)])
      = some ⟨0x00, 0x00, 0x00, 0xFD, 0x24, 0x8001, 2, []⟩ := by decide +kernel

/-! ## Undefined opcodes, interrupts, resets (L2-UD, L2-IN, L2-RS) -/

/-- How a step stops. -/
def stopOf (o : Out) : Option (Fault ⊕ Refusal) :=
  match o with
  | .next _ => none
  | .fault f => some (.inl f)
  | .refused r => some (.inr r)

theorem test_undefined_opcode_ud1 :
    stopOf (step (machine 0x00 0x00 0x00 0xFD 0x24 0x8000 [(0x8000, 0x02)]))
      = some (.inr (.undefinedOpcode 0x02 0x8000)) := by decide +kernel

/-- The vectors of the L2-IN rows. -/
def vectors : List (Word × Byte) := [(0xFFFB, 0xA0), (0xFFFF, 0xB0)]

/-- The row prints P as 0xC3 and 0xC7, without U; R29 makes bit 5 read as 1, so the byte here is 0xE7. -/
theorem test_nmi_entry_in2 :
    after { machine 0x00 0x00 0x00 0xFD 0xC3 0x8000 vectors with nmiPending := true }
      = some ⟨0x00, 0x00, 0x00, 0xFA, 0xE7, 0xA000, 7, [(0x01FD, 0x80), (0x01FC, 0x00), (0x01FB, 0xE3)]⟩ := by
  decide +kernel

theorem test_irq_entry_in3 :
    after { machine 0x00 0x00 0x00 0xFD 0x20 0x8000 vectors with irqLine := true }
      = some ⟨0x00, 0x00, 0x00, 0xFA, 0x24, 0xB000, 7, [(0x01FD, 0x80), (0x01FC, 0x00), (0x01FB, 0x20)]⟩ := by
  decide +kernel

theorem test_irq_masked_in4 :
    after { machine 0x00 0x00 0x00 0xFD 0x24 0x8000 ((0x8000, 0xE8) :: vectors) with irqLine := true }
      = some ⟨0x00, 0x01, 0x00, 0xFD, 0x24, 0x8001, 2, []⟩ := by decide +kernel

theorem test_nmi_before_irq_in5 :
    after { machine 0x00 0x00 0x00 0xFD 0x20 0x8000 vectors with irqLine := true, nmiPending := true }
      = some ⟨0x00, 0x00, 0x00, 0xFA, 0x24, 0xA000, 7, [(0x01FD, 0x80), (0x01FC, 0x00), (0x01FB, 0x20)]⟩ := by
  decide +kernel

theorem test_nmi_before_undefined_opcode_in9 :
    after { machine 0x00 0x00 0x00 0xFD 0x24 0x8000 ((0x8000, 0x02) :: vectors) with nmiPending := true }
      = some ⟨0x00, 0x00, 0x00, 0xFA, 0x24, 0xA000, 7, [(0x01FD, 0x80), (0x01FC, 0x00), (0x01FB, 0x24)]⟩ := by
  decide +kernel

/-- With nothing assumed of ExtBus a write is no RAM write, and it joins the history the next answer is a function of. -/
theorem test_open_bus_write_joins_history :
    (match memWrite 0x8000 0x01 State.reset with
      | .ok _ t => t.history.head? = some (.cpuWrite 0x8000 0x01) ∧ t.ext.cells = []
      | .fault _ => False
      | .refused _ => False) := ⟨rfl, rfl⟩

/-- An instruction placed at reset runs as the first one, though nothing is assumed of ExtBus before. -/
theorem test_placed_instruction_runs :
    (match step (State.reset.withFetchWord 16 0x5AA9) with
      | .next t => t.cpu.a = 0x5A ∧ t.cpu.pc = 0x8002
      | .fault _ => False
      | .refused _ => False) := ⟨rfl, rfl⟩

theorem test_not_reset_rs1 : stopOf (cpuClock State.powerOn) = some (.inl (.notReset .cpu)) := by decide +kernel

theorem test_not_reset_rs2 : stopOf (ppuClock State.powerOn).finish = some (.inl (.notReset .ppu)) := by decide +kernel

theorem test_cpu_reset_rs4 :
    after { machine 0x55 0x01 0x02 0x03 0xFF 0x8000 [(0xFFFC, 0x34), (0xFFFD, 0x12)] with
      nmiPending := true, loop := [.cpuReset] }
      = some ⟨0x00, 0x00, 0x00, 0xFD, 0x24, 0x1234, 8, []⟩ := by decide +kernel

/-! ## The register port (L2-PR), the scroll arithmetic (L2-RN) and the picture (L2-TL) -/

/-- The machine after a reset with its PPU's registers changed. -/
def picture (f : Ppu → Ppu) : State := { State.reset with ppu := f State.reset.ppu }

/-- `ctrl`, `t`, `v`, `x`, `w` after writes of the port. -/
def afterWrites (s : State) : List (Nat × Byte) → Option (Byte × BitVec 15 × BitVec 15 × BitVec 3 × Bool)
  | [] => some (s.ppu.ctrl, s.ppu.t, s.ppu.v, s.ppu.x, s.ppu.w)
  | e :: rest =>
    match portWrite e.1 e.2 s with
    | .ok _ t => afterWrites t rest
    | .fault _ => none
    | .refused _ => none

theorem test_ctrl_pr1 : afterWrites State.reset [(0, 0x03)] = some (0x03, 0x0C00, 0, 0, false) := by decide +kernel
theorem test_ctrl_pr2 :
    afterWrites (picture fun p => { p with t := 0x7FFF }) [(0, 0x00)] = some (0x00, 0x73FF, 0, 0, false) := by
  decide +kernel
theorem test_scroll_pr3 : afterWrites State.reset [(5, 0x7D)] = some (0x00, 0x000F, 0, 5, true) := by decide +kernel
theorem test_scroll_pr4 :
    afterWrites (picture fun p => { p with t := 0x000F, w := true }) [(5, 0x5E)] = some (0x00, 0x616F, 0, 0, false) := by
  decide +kernel
theorem test_addr_pr6 :
    afterWrites State.reset [(6, 0x3F), (6, 0x10)] = some (0x00, 0x3F10, 0x3F10, 0, false) := by decide +kernel
theorem test_addr_pr7 :
    afterWrites (picture fun p => { p with t := 0x7FFF }) [(6, 0xFF)] = some (0x00, 0x3FFF, 0, 0, true) := by
  decide +kernel
theorem test_shared_latch_pr8 :
    afterWrites State.reset [(5, 0x08), (6, 0x21)] = some (0x00, 0x0021, 0x0021, 0, false) := by decide +kernel
theorem test_data_increment_pr11 :
    afterWrites (picture fun p => { p with v := 0x2000, ctrl := 0x04 }) [(7, 0x11)]
      = some (0x04, 0, 0x2020, 0, false) := by decide +kernel
theorem test_data_increment_pr12 :
    afterWrites (picture fun p => { p with v := 0x7FFF }) [(7, 0x55)] = some (0x00, 0, 0, 0, false) := by decide +kernel

/-- What a read of the port returns, with `v` and the buffer after it. -/
def afterRead (index : Nat) (s : State) : Option (Byte × BitVec 15 × Byte) :=
  match portRead index s with
  | .ok d t => some (d, t.ppu.v, t.ppu.readBuffer)
  | .fault _ => none
  | .refused _ => none

/-- What a dot hands out. -/
def dotOutput (s : State) : Option (List IoEvent) :=
  match ppuClock s with
  | .ok _ t => some t.io
  | .fault _ => none
  | .refused _ => none

/-- R38, R231: the greyscale bit goes out with the pixel, and not with a dot outside the picture. -/
theorem test_greyscale_is_handed_out :
    dotOutput (picture fun p => { p with mask := 0x01, scanline := 0, dot := 1 }) =
      some [.pixel 0 0 0, .greyscale true] ∧
    dotOutput (picture fun p => { p with mask := 0xE6, scanline := 239, dot := 256 }) =
      some [.pixel 255 239 0, .greyscale false] ∧
    dotOutput (picture fun p => { p with mask := 0x01, scanline := 240, dot := 1 }) = some [] := by decide +kernel

/-- A PPU memory with bytes placed in it. -/
def pictureMemory (s : State) (bytes : List (Word × Byte)) : State :=
  { s with ppuBus := flatRam bytes }

theorem test_data_read_pr13 :
    afterRead 7 (pictureMemory (picture fun p => { p with v := 0x2000, readBuffer := 0x99 }) [(0x2000, 0xAB)])
      = some (0x99, 0x2001, 0xAB) := by decide +kernel
theorem test_palette_read_pr14 :
    afterRead 7 (pictureMemory (picture fun p => { p with v := 0x3F00, readBuffer := 0x99 })
      [(0x3F00, 0x0F), (0x2F00, 0x44)]) = some (0x0F, 0x3F01, 0x99) := by decide +kernel
theorem test_oam_read_pr17 :
    afterRead 4 (picture fun p => { p with oamAddr := 0xFE, oam := { cells := [(0xFE, 0x11), (0xFF, 0xFF)], epoch := 0 } })
      = some (0x01, 0, 0x00) := by decide +kernel

/-- The pending NMI and its edge memory after a write of CTRL. -/
def afterCtrl (d : Byte) (s : State) : Option (Bool × Bool) :=
  match portWrite 0 d s with
  | .ok _ t => some (t.nmiPending, t.ppu.nmiOutputPrev)
  | .fault _ => none
  | .refused _ => none

theorem test_ctrl_raises_nmi_pr22 :
    afterCtrl 0x80 (picture fun p => { p with vblank := true }) = some (true, true) := by decide +kernel

theorem test_increment_x_rn :
    incrementX 0x001F = 0x0400 ∧ incrementX 0x041F = 0x0000 ∧ incrementX 0x0C1E = 0x0C1F := by decide +kernel
theorem test_increment_y_rn :
    incrementY 0x6000 = 0x7000 ∧ incrementY 0x73A0 = 0x0800 ∧ incrementY 0x7BA0 = 0x0000 ∧ incrementY 0x73C0 = 0x03E0 ∧
    incrementY 0x73E0 = 0x0000 ∧ incrementY 0x7BE0 = 0x0800 ∧ incrementY 0x70A0 = 0x00C0 := by decide +kernel
theorem test_copies_rn :
    horizontalCopy 0x7FFF 0x0000 = 0x7BE0 ∧ horizontalCopy 0x0000 0x7FFF = 0x041F ∧
    verticalCopy 0x7FFF 0x0000 = 0x041F ∧ verticalCopy 0x0000 0x7FFF = 0x7BE0 := by decide +kernel
theorem test_fetch_addresses_rn :
    nametableAddress 0x0421 = 0x2421 ∧ nametableAddress 0x7FFF = 0x2FFF ∧ attributeAddress 0x0400 = 0x27C0 ∧
    attributeAddress 0x0C7F = 0x2FC7 ∧ attributeShift 0x0C7F = 6 ∧ attributeAddress 0x03BF = 0x23FF ∧
    attributeShift 0x03BF = 2 := by decide +kernel
theorem test_pattern_address_rn25 :
    patternAddress { Ppu.reset with ctrl := 0x10, bgNextNt := 0x41, v := 0x3000 } = 0x1413 := by decide +kernel

/-- The status bits, the flag and the position after one PPU call. -/
def afterDot (s : State) : Option (Bool × Bool × Int × Nat) :=
  match ppuClock s with
  | .ok _ t => some (t.ppu.vblank, t.nmiPending, t.ppu.scanline, t.ppu.dot)
  | .fault _ => none
  | .refused _ => none

theorem test_vblank_set_tl1 :
    afterDot (picture fun p => { p with ctrl := 0x80, scanline := 241, dot := 1 }) = some (true, true, 241, 2) := by
  decide +kernel
theorem test_vblank_clear_tl2 :
    afterDot (picture fun p => { p with vblank := true, dot := 1 }) = some (false, false, -1, 2) := by decide +kernel
theorem test_frame_wraps_tl3 :
    afterDot (picture fun p => { p with scanline := 260, dot := 340 }) = some (false, false, -1, 0) := by decide +kernel

/-! ## Witnesses: concrete states and operands that meet the hypotheses of the obligations -/

/-- Whether a call answers a next state. -/
def answers (o : Out) : Bool :=
  match o with
  | .next _ => true
  | .fault _ => false
  | .refused _ => false

theorem answers_iff (o : Out) : answers o = true ↔ ∃ t, o = .next t := by
  cases o <;> simp [answers]

/-- Whether an operation answers a value. -/
def answersValue {α : Type} (r : Res α) : Bool :=
  match r with
  | .ok _ _ => true
  | .fault _ => false
  | .refused _ => false

theorem answersValue_iff {α : Type} (r : Res α) : answersValue r = true ↔ ∃ d t, r = .ok d t := by
  cases r <;> simp [answersValue]

/-- A machine at a boundary with LDA absolute,X at PC. -/
def atLda : State := machine 0x00 0x20 0x00 0xFD 0x24 0x8000 [(0x8000, 0xBD), (0x8001, 0xF0), (0x8002, 0x12)]

/-- A machine at a boundary with LDA of STATUS at PC. -/
def atStatus : State := machine 0x00 0x00 0x00 0xFD 0x24 0x8000 [(0x8000, 0xAD), (0x8001, 0x02), (0x8002, 0x20)]

/-- A machine at a boundary with STA of CTRL at PC, A asking for NMIs, in vblank. -/
def atCtrl : State :=
  { machine 0x80 0x00 0x00 0xFD 0x24 0x8000 [(0x8000, 0x8D), (0x8001, 0x00), (0x8002, 0x20)] with
    ppu := { Ppu.reset with vblank := true } }

theorem witness_DecodeAcceptsOnlyEncodings : decode [0xA9, 0x10, 0x77] = .ok (.ldaImm 0x10, [0x77]) := rfl

theorem witness_OpcodeMapIsComplete :
    (0x02 : Byte) ∈ undefinedOpcodes ∧ (0xFF : Byte) ∈ undefinedOpcodes ∧
    (Instr.ldaImm 0x00).opcode = (Instr.ldaImm 0xFF).opcode := by decide +kernel

/-- For the first form from `calls` and for the other one from `loop`, with a three-byte instruction below the window's
last byte and a one-byte instruction at the top of memory. -/
theorem witness_StepRunsTheDecodedInstruction :
    (nextCall atLda = some (.cpuClock, []) ∧ atLda.cpu.resetDone = true ∧ atLda.cpu.cycles = 0 ∧ NoInterrupt atLda ∧
      (∀ k < 3, Plain atLda (atLda.cpu.pc + BitVec.ofNat 16 k)) ∧ read1 (codeBytes atLda 3) = some (.ldaAbx 0x12F0)) ∧
    let s := { machine 0x00 0x00 0x00 0xFD 0x24 0xFFFF [(0xFFFF, 0xEA)] with calls := [.cpuClock, .ppuClock] }
    nextCall s = some (.cpuClock, [.ppuClock]) ∧ NoInterrupt s ∧ (∀ k < 1, Plain s (s.cpu.pc + BitVec.ofNat 16 k)) ∧
      read1 (codeBytes s 1) = some .nop := by decide +kernel

theorem witness_StepMakesTheNextCall :
    ({ State.reset with calls := [.inspect] } : State).calls = [.inspect] ∧
    (State.reset.calls = [] ∧ State.reset.loop = .cpuClock :: [.ppuClock, .ppuClock, .ppuClock]) ∧
    ({ State.reset with loop := [] } : State).calls = [] := by decide +kernel

theorem witness_CountdownCallOnlyDecrements :
    State.reset.cpu.resetDone = true ∧ 0 < State.reset.cpu.cycles ∧ 0 < ({ State.reset.cpu with cycles := 1 }).cycles := by
  decide +kernel

theorem witness_BeginCallOccupiesItsCost :
    (atLda.cpu.cycles = 0 ∧ answers (cpuClock atLda) = true ∧ NoInterrupt atLda) ∧
    (let s := { atLda with nmiPending := true };
      s.cpu.cycles = 0 ∧ answers (cpuClock s) = true ∧ ¬NoInterrupt s) := by decide +kernel

theorem witness_InstructionCostBounds :
    answers (exec (.ldaAbx 0x12F0) atLda) = true ∧ (Instr.ldaAbx 0x12F0).pageExtra = true ∧
    answers (exec (.bne 0x7F) atLda) = true ∧ (Instr.bne 0x7F).mode = .relative ∧
    answers (exec (.staAbx 0x12F0) atLda) = true ∧ (Instr.staAbx 0x12F0).pageExtra = false ∧
    (Instr.staAbx 0x12F0).mode ≠ .relative := by decide +kernel

theorem witness_CpuCallMakesAtMostSixTransfers :
    answers (cpuClock atLda) = true ∧ answers (cpuClock State.reset) = true := by decide +kernel

theorem witness_EveryInstructionCompletes :
    BusReady State.reset ∧ BusReady { State.reset with params := { Params.spec with spriteStatus := .refuse } } := by
  decide +kernel

theorem witness_CpuClockOutcomes :
    State.powerOn.cpu.resetDone = false ∧ (atLda.cpu.resetDone = true ∧ BusReady atLda ∧ NoInterrupt atLda) ∧
    BusReady (machine 0x00 0x00 0x00 0xFD 0x24 0x8000 [(0x8000, 0x02)]) := by decide +kernel

/-- The window's first and last address before the PPU reset, and STATUS under Refuse with sprites shown. -/
theorem witness_ProcessorBusStops :
    (inWindow 0x2000 = true ∧ inWindow 0x3FFF = true ∧ State.powerOn.ppu.resetDone = false) ∧
    (let s := { picture fun p => { p with mask := 0x10 } with params := { Params.spec with spriteStatus := .refuse } };
      inWindow 0x3FFA = true ∧ s.ppu.resetDone = true ∧ (0x3FFA : Word).toNat % 8 = 2 ∧
        s.params.spriteStatus = .refuse ∧ s.ppu.mask.getLsbD 4 = true) ∧
    (inWindow 0x1FFF = false ∧ inWindow 0x4000 = false ∧
      ¬(inWindow 0x1FFF = true ∧ State.powerOn.ppu.resetDone = false)) := by decide +kernel

theorem witness_RamReadsBackWhatWasWritten :
    inWindow 0x1FFF = false ∧ inWindow 0x4000 = false ∧ Plain atLda 0x1FFF ∧ Plain atLda 0x4000 ∧
    atLda.ext.kindAt 0x4000 = .ram ∧
    (let s := { State.reset with ext := { cells := [], regions := [⟨0x8000, 0xFFFF, .rom⟩] } };
      Plain s 0x8000 ∧ s.ext.kindAt 0x8000 = .rom) := by decide +kernel

theorem witness_ReadsChangeOnlyTheirSideEffects :
    (answersValue (memRead 0x1FFF atLda) = true ∧ Plain atLda 0x1FFF) ∧
    (answersValue (memRead 0x3FFA State.reset) = true ∧ inWindow 0x3FFA = true ∧ (0x3FFA : Word).toNat % 8 = 2) ∧
    (answersValue (memRead 0x2007 State.reset) = true ∧ inWindow 0x2007 = true ∧ (0x2007 : Word).toNat % 8 = 7) ∧
    answersValue (memRead 0x2000 State.reset) = true := by decide +kernel

theorem witness_DirectModes :
    answersValue (effective (.absoluteX 0xFFFF) atLda) = true ∧ answersValue (memRead 0x001F atLda) = true := by
  decide +kernel

theorem witness_PointerModes : ∀ p : Byte, atLda.ext.kindAt p.toNat ≠ .free := by decide +kernel

theorem witness_LoadInstructions :
    (Instr.ldaImm 0x00).view = .read .lda (.immediate 0x00) ∧
    (Instr.ldaIzy 0xFF).view = .read .lda (.memory (.indirectIndexed 0xFF)) ∧
    (Instr.ldxAby 0xFFFF).view = .read .ldx (.memory (.absoluteY 0xFFFF)) ∧
    (Instr.ldyZpx 0xFF).view = .read .ldy (.memory (.zeroPageX 0xFF)) ∧ BusReady State.reset := by decide +kernel

theorem witness_StoreInstructions :
    (Instr.staIzx 0xFF).view = .store .sta (.indexedIndirect 0xFF) ∧
    (Instr.stxZpy 0xFF).view = .store .stx (.zeroPageY 0xFF) ∧
    (Instr.styAbs 0x2000).view = .store .sty (.absolute 0x2000) ∧ State.reset.ppu.resetDone = true := by decide +kernel

theorem witness_LogicInstructions :
    (Instr.andImm 0x00).view = .read .and (.immediate 0x00) ∧
    (Instr.oraAbx 0xFFFF).view = .read .ora (.memory (.absoluteX 0xFFFF)) ∧
    (Instr.eorIzx 0xFF).view = .read .eor (.memory (.indexedIndirect 0xFF)) ∧
    (Instr.bitAbs 0x2002).view = .read .bit (.memory (.absolute 0x2002)) ∧ BusReady State.reset := by decide +kernel

theorem witness_ShiftInstructions :
    (Instr.aslZp0 0x00).view = .modify .asl (.memory (.zeroPage 0x00)) ∧
    (Instr.lsrZpx 0xFF).view = .modify .lsr (.memory (.zeroPageX 0xFF)) ∧
    (Instr.rolAbs 0x2007).view = .modify .rol (.memory (.absolute 0x2007)) ∧
    (Instr.rorAbx 0xFFFF).view = .modify .ror (.memory (.absoluteX 0xFFFF)) ∧ BusReady State.reset := by decide +kernel

theorem witness_AddAndSubtractInstructions :
    (Instr.adcImm 0x80).view = .read .adc (.immediate 0x80) ∧
    (Instr.sbcAby 0xFFFF).view = .read .sbc (.memory (.absoluteY 0xFFFF)) ∧ BusReady State.reset := by decide +kernel

theorem witness_CompareInstructions :
    (Instr.cmpIzy 0x00).view = .read .cmp (.memory (.indirectIndexed 0x00)) ∧
    (Instr.cpxImm 0xFF).view = .read .cpx (.immediate 0xFF) ∧
    (Instr.cpyAbs 0x0000).view = .read .cpy (.memory (.absolute 0x0000)) ∧ BusReady State.reset := by decide +kernel

theorem witness_MemoryIncrementAndDecrement :
    (Instr.incZp0 0xFF).view = .modify .inc (.memory (.zeroPage 0xFF)) ∧
    (Instr.decAbx 0x02FF).view = .modify .dec (.memory (.absoluteX 0x02FF)) ∧ BusReady State.reset := by decide +kernel

/-- At SP = 0xFD and where the stack wraps. -/
theorem witness_StackRoundTrips :
    (∀ k : Nat, k < 3 → atLda.ext.kindAt (stackByte (atLda.cpu.sp - BitVec.ofNat 8 k)).toNat = .ram) ∧
    (∀ k : Nat, k < 3 → atLda.ext.kindAt (stackByte (0x01 - BitVec.ofNat 8 k)).toNat = .ram) := by decide +kernel

theorem witness_JumpInstructions : BusReady State.reset := by decide +kernel

theorem witness_PendingNmiIsTakenAtABoundary :
    let s := { atLda with nmiPending := true }
    s.cpu.resetDone = true ∧ s.cpu.cycles = 0 ∧ s.nmiPending = true := by decide +kernel

theorem witness_IrqIsTakenWhenUnmasked :
    (let s := { machine 0x00 0x00 0x00 0xFD 0x20 0x8000 [] with irqLine := true };
      s.cpu.resetDone = true ∧ s.cpu.cycles = 0 ∧ s.nmiPending = false ∧ s.irqLine = true ∧ s.cpu.p.i = false) ∧
    (let s := { machine 0x00 0x00 0x00 0xFD 0x24 0x8000 [] with irqLine := true };
      s.cpu.resetDone = true ∧ s.cpu.cycles = 0 ∧ NoInterrupt s ∧ s.nmiPending = false ∧ s.irqLine = true) ∧
    NoInterrupt (machine 0x00 0x00 0x00 0xFD 0x20 0x8000 []) := by decide +kernel

/-- `vblank` and the pending NMI after a call of the host. -/
def flagsAfter (c : HostCall) (s : State) : Option (Bool × Bool) :=
  match runCall c s with
  | .next t => some (t.ppu.vblank, t.nmiPending)
  | .fault _ => none
  | .refused _ => none

/-- Each of the three ways the flag appears, the way vblank does, and the two ways the flag goes away. -/
theorem witness_VblankAndNmiSources :
    flagsAfter .ppuClock (picture fun p => { p with ctrl := 0x80, scanline := 241, dot := 1 }) = some (true, true) ∧
    flagsAfter (.ppuWrite 0 0x80) (picture fun p => { p with vblank := true }) = some (true, true) ∧
    flagsAfter .cpuClock atCtrl = some (true, true) ∧
    flagsAfter .cpuReset { State.reset with nmiPending := true } = some (false, false) ∧
    flagsAfter .cpuClock { atLda with nmiPending := true } = some (false, false) := by decide +kernel

theorem witness_PortChecks :
    State.powerOn.ppu.resetDone = false ∧ (State.reset.ppu.resetDone = true ∧ 7 < 8 ∧ 7 ≤ 7 ∧ 0 ∈ [0, 1, 3, 5, 6]) ∧
    ¬(2 = 2 ∧ State.reset.params.spriteStatus = .refuse ∧ State.reset.ppu.mask.getLsbD 4 = true) ∧
    (let s := { picture fun p => { p with mask := 0x10 } with params := { Params.spec with spriteStatus := .refuse } };
      s.ppu.resetDone = true ∧ s.params.spriteStatus = .refuse ∧ s.ppu.mask.getLsbD 4 = true) := by decide +kernel

theorem witness_ControlAndMaskWrites : State.reset.ppu.resetDone = true := by decide +kernel

theorem witness_ScrollAndAddressWrites :
    (State.reset.ppu.resetDone = true ∧ State.reset.ppu.w = false) ∧
    let s := picture fun p => { p with w := true }
    s.ppu.resetDone = true ∧ s.ppu.w = true := by decide +kernel

theorem witness_StatusReadClearsVblankAndLatch :
    BusReady (picture fun p => { p with vblank := true, w := true, mask := 0x10 }) := by decide +kernel

/-- A later state that keeps OAM and the index, and one with another index. -/
theorem witness_OamPort :
    State.reset.ppu.resetDone = true ∧ (0xFF : Byte) ≠ State.reset.ppu.oamAddr ∧
    (let t := picture fun p => { p with oam := oamStore p.oam p.oamAddr 0xFF, oamAddr := p.oamAddr + 1 };
      let u := { t with ppu := { t.ppu with oamAddr := 0x00 } }
      u.ppu.resetDone = true ∧ u.ppu.oam = t.ppu.oam ∧ u.ppu.oamAddr = State.reset.ppu.oamAddr) := by decide +kernel

/-- The address at both sides of palette space, and both settings of the parameter. -/
theorem witness_DataPortReadsAndWrites :
    (let s := pictureMemory State.reset [];
      s.ppu.resetDone = true ∧ ∀ a : Nat, a < 0x4000 → s.ppuBus.kindAt a ≠ .free) ∧
    ((picture fun p => { p with v := 0x3EFF }).ppu.v.toNat % 0x4000 < 0x3F00) ∧
    (0x3F00 ≤ (picture fun p => { p with v := 0x7F00 }).ppu.v.toNat % 0x4000 ∧
      State.reset.params.paletteReadRefillsBuffer = false) ∧
    ({ State.reset with params := { Params.spec with paletteReadRefillsBuffer := true } } : State).params.paletteReadRefillsBuffer
      = true :=
  ⟨⟨rfl, fun a h => by
    have : (flatRam []).kindAt a = .ram := by simp [Bus.kindAt, flatRam, busKindIn, show a ≤ 65535 by omega]
    simp [pictureMemory, this]⟩, by decide, by decide, by decide⟩

/-- The lowest nametable address and the highest one the increment leaves below palette space. -/
theorem witness_DataPortRoundTrip :
    State.reset.ppu.resetDone = true ∧ State.reset.ppu.w = false ∧ 0x2000 ≤ (0x2000 : Word).toNat ∧
    (0x3EFE : Word).toNat + (if State.reset.ppu.ctrl.getLsbD 2 then 32 else 1) < 0x3F00 ∧
    (pictureMemory State.reset []).ppuBus.kindAt (0x2000 : Word).toNat = .ram ∧
    (pictureMemory State.reset []).ppuBus.kindAt (0x3EFE : Word).toNat = .ram := by
  decide +kernel

theorem witness_PortCallsChangeOnlyTheirRegister :
    answersValue (portRead 2 State.reset) = true ∧ answersValue (portRead 7 State.reset) = true ∧
    answersValue (portRead 4 State.reset) = true ∧ answersValue (portWrite 0 0x80 State.reset) = true ∧
    answersValue (portWrite 7 0x80 State.reset) = true := by decide +kernel

/-- The first and the last rendering line, by either MASK bit. -/
theorem witness_RenderingDotSchedule :
    Rendering (picture fun p => { p with mask := 0x08, scanline := -1, dot := 304 }) ∧
    Rendering (picture fun p => { p with mask := 0x10, scanline := 239, dot := 257 }) ∧
    dotAddress (picture fun p => { p with mask := 0x08, dot := 1 }) = some 0x2000 ∧
    dotAddress (picture fun p => { p with mask := 0x08, dot := 340 }) = none := by decide +kernel

theorem witness_RenderingDisabledDoesNothing :
    let s := picture fun p => { p with mask := 0xE7, scanline := 239, dot := 256 }
    s.ppu.resetDone = true ∧ s.ppu.mask.getLsbD 3 = false ∧ s.ppu.mask.getLsbD 4 = false := by decide +kernel

theorem witness_PixelOfADot :
    ¬Rendering State.reset ∧ let s := picture fun p => { p with mask := 0x08, scanline := 0, dot := 9 }
    s.ppu.resetDone = true ∧ s.ppu.mask.getLsbD 3 = true ∧ 8 < s.ppu.dot := by decide +kernel

theorem witness_FrameIsOf89342Dots :
    State.reset.ppu.resetDone = true ∧ (-1 ≤ Ppu.reset.scanline ∧ Ppu.reset.scanline ≤ 260 ∧ Ppu.reset.dot ≤ 340) ∧
    (let p := { Ppu.reset with scanline := 260, dot := 340 };
      -1 ≤ p.scanline ∧ p.scanline ≤ 260 ∧ p.dot ≤ 340) := by decide +kernel

theorem witness_VblankSetAndClear :
    (let p := (picture fun p => { p with scanline := 241, dot := 1 }).ppu;
      p.resetDone = true ∧ p.scanline = 241 ∧ p.dot = 1) ∧
    (let p := (picture fun p => { p with dot := 1 }).ppu;
      p.resetDone = true ∧ p.scanline = -1 ∧ p.dot = 1) ∧
    (let p := (picture fun p => { p with scanline := 241, dot := 2 }).ppu;
      p.resetDone = true ∧ ¬(p.scanline = 241 ∧ p.dot = 1) ∧ ¬(p.scanline = -1 ∧ p.dot = 1) ∧ p.sprite0Hit = false ∧
        p.spriteOverflow = false) := by decide +kernel

theorem witness_PictureCallsLeaveTheProcessor :
    HostCall.ppuClock ≠ .cpuReset ∧ HostCall.ppuClock ≠ .cpuClock ∧ answers (runCall .ppuClock State.reset) = true ∧
    answers (runCall (.ppuRead 2) State.reset) = true := by decide +kernel

/-- The transfers of a CPU call that stay off the window, and those of one that reaches it. -/
def windowFree (s : State) : Option Bool :=
  match cpuClock s with
  | .next t => some (t.io.all fun e => !e.inWindow)
  | .fault _ => none
  | .refused _ => none

theorem witness_ProcessorReachesThePpuOnlyByTheWindow :
    windowFree atLda = some true ∧ windowFree atStatus = some false := by decide +kernel

theorem witness_CpuResetLoadsItsValues :
    atLda.ext.kindAt 0xFFFC ≠ .free ∧ atLda.ext.kindAt 0xFFFD ≠ .free ∧ atLda.params = Params.spec := by decide +kernel

theorem witness_StepKeepsTheInvariant : Inv State.reset ∧ answers (step State.reset) = true := by
  refine ⟨⟨by decide, by decide, by decide, by decide, by decide, by decide, by decide, by decide, by decide⟩, ?_⟩
  decide +kernel

end Sys2Proof.Tests
end

section
/-! PROOFS. The two units apart (spec/00_scope.md R7): what a call on the picture core leaves of the processor's side, and what
a CPU call leaves of the picture core. -/

namespace Sys2Proof.Stated

open Sys2Proof.Machine

/-! ## A call on the picture core -/

/-- Only an operation that answered ends a call with a next state. -/
theorem finish_eq_next {r : Res Unit} {t : State} (h : r.finish = .next t) : r = .ok () t := by
  cases r with
  | ok u s => cases h; rfl
  | fault f => cases h
  | refused e => cases h

theorem CpuSideKept.refl (s : State) : CpuSideKept s s := ⟨rfl, rfl, rfl, rfl, rfl⟩

theorem CpuSideKept.trans {s t u : State} (h : CpuSideKept s t) (k : CpuSideKept t u) : CpuSideKept s u where
  cpu := k.cpu.trans h.cpu
  ext := k.ext.trans h.ext
  params := k.params.trans h.params
  calls := k.calls.trans h.calls
  loop := k.loop.trans h.loop

theorem portRead_cpuSideKept {i : Nat} {s t : State} {d : Byte} (h : portRead i s = .ok d t) : CpuSideKept s t := by
  obtain ⟨_, _, _, _, _, _, _, rfl⟩ := portRead_form h
  exact ⟨rfl, rfl, rfl, rfl, rfl⟩

theorem portWrite_cpuSideKept {i : Nat} {s t : State} {d : Byte} (h : portWrite i d s = .ok () t) : CpuSideKept s t := by
  obtain ⟨hcpu, hext, host⟩ := portWrite_frame h
  exact ⟨hcpu, hext, host.params, host.calls, host.loop⟩

theorem renderDot_cpuSideKept (s : State) : CpuSideKept s (renderDot s) := by
  obtain ⟨_, _, _, _, _, _, _, _, _, _, h⟩ := renderDot_form s
  rw [h]
  exact ⟨rfl, rfl, rfl, rfl, rfl⟩

theorem pixelDot_cpuSideKept (s : State) : CpuSideKept s (pixelDot s) := by
  unfold pixelDot
  split
  · exact ⟨rfl, rfl, rfl, rfl, rfl⟩
  · exact .refl s

theorem statusEvents_cpuSideKept (line : Int) (d : Nat) (s : State) : CpuSideKept s (statusEvents line d s) := by
  obtain ⟨_, _, _, _, _, _, h⟩ := statusEvents_form line d s
  rw [h]
  exact ⟨rfl, rfl, rfl, rfl, rfl⟩

theorem mapPpu_cpuSideKept (f : Ppu → Ppu) (s : State) : CpuSideKept s (s.mapPpu f) := ⟨rfl, rfl, rfl, rfl, rfl⟩

theorem ppuDot_cpuSideKept (s : State) : CpuSideKept s (ppuDot s) :=
  (renderDot_cpuSideKept s).trans <| (pixelDot_cpuSideKept _).trans <|
    (statusEvents_cpuSideKept _ _ _).trans (mapPpu_cpuSideKept advance _)

theorem ppuClock_cpuSideKept {s t : State} (h : ppuClock s = .ok () t) : CpuSideKept s t := by
  unfold ppuClock at h
  split at h
  · cases h
  · cases h
    exact ppuDot_cpuSideKept s

/-- Settles O55, by cases on the call: each operation of the picture core keeps the processor's side. -/
theorem pictureCallsLeaveTheProcessor : Obligations.PictureCallsLeaveTheProcessor := by
  intro c s t hreset hclock h
  cases c with
  | cpuReset => exact absurd rfl hreset
  | cpuClock => exact absurd rfl hclock
  | ppuReset =>
    cases h
    exact ⟨rfl, rfl, rfl, rfl, rfl⟩
  | ppuClock => exact ppuClock_cpuSideKept (finish_eq_next h)
  | ppuRead i =>
    obtain ⟨d, u, hread, hu⟩ := Res.bind_eq_ok (finish_eq_next h)
    cases hu
    exact (portRead_cpuSideKept hread).trans ⟨rfl, rfl, rfl, rfl, rfl⟩
  | ppuWrite i d => exact portWrite_cpuSideKept (finish_eq_next h)
  | inspect =>
    cases h
    exact .refl s
  | setIrq level =>
    cases h
    exact ⟨rfl, rfl, rfl, rfl, rfl⟩

/-! ## A CPU call -/

theorem sameHost_trans {s t u : State} (h : SameHost s t) (k : SameHost t u) : SameHost s u where
  irqLine := k.irqLine.trans h.irqLine
  params := k.params.trans h.params
  calls := k.calls.trans h.calls
  loop := k.loop.trans h.loop

theorem recorded_trans {s t u : State} {l m : List IoEvent} (h : Recorded s t l) (k : Recorded t u m) :
    Recorded s u (l ++ m) := by
  obtain ⟨hio, hhist⟩ := h
  obtain ⟨kio, khist⟩ := k
  exact ⟨by rw [kio, hio, List.append_assoc], by rw [khist, hhist, List.reverse_append, List.append_assoc]⟩

/-- A register write that answers makes recorded transfers only: one on the PPU bus at DATA, none elsewhere (R207). -/
theorem portWrite_recorded {i : Nat} {d : Byte} {s t : State} (h : portWrite i d s = .ok () t) :
    ∃ events, Recorded s t events := by
  by_cases hi : i = 7
  · subst hi
    unfold portWrite at h
    split at h
    · cases h
    · cases h
      exact ⟨[.ppuWrite _ d], rfl, rfl⟩
  · obtain ⟨-, -, hkeep, -, -⟩ := portWrite_keeps h
    obtain ⟨-, hio, hhist⟩ := hkeep hi
    exact ⟨[], by simp [hio], by simp [hhist]⟩

/-- What transfers of the processor bus leave: the host's side, every byte of ExtBus they do not write, and, when none of
them is of the register window, the picture core, the bytes of the PPU bus and the pending NMI. -/
structure BusFrame (s t : State) (events : List IoEvent) : Prop where
  host : SameHost s t
  recorded : Recorded s t events
  elsewhere : ∀ a : Nat, (∀ (w : Word) (d : Byte), IoEvent.cpuWrite w d ∈ events → w.toNat ≠ a) →
    t.ext.peek a = s.ext.peek a
  picture : (∀ e ∈ events, e.inWindow = false) → t.ppu = s.ppu ∧ t.ppuBus = s.ppuBus ∧ t.nmiPending = s.nmiPending

theorem BusFrame.trans {s t u : State} {l m : List IoEvent} (h : BusFrame s t l) (k : BusFrame t u m) :
    BusFrame s u (l ++ m) where
  host := sameHost_trans h.host k.host
  recorded := recorded_trans h.recorded k.recorded
  elsewhere a hw :=
    (k.elsewhere a fun w d hm => hw w d (List.mem_append_right l hm)).trans
      (h.elsewhere a fun w d hl => hw w d (List.mem_append_left m hl))
  picture hw := by
    obtain ⟨kppu, kbus, knmi⟩ := k.picture fun e he => hw e (List.mem_append_right l he)
    obtain ⟨hppu, hbus, hnmi⟩ := h.picture fun e he => hw e (List.mem_append_left m he)
    exact ⟨kppu.trans hppu, kbus.trans hbus, knmi.trans hnmi⟩

/-- With no transfer at all, a change of the CPU's registers alone has the frame. -/
theorem busFrame_setCpu (s : State) (c : Cpu) : BusFrame s (s.setCpu c) [] where
  host := ⟨rfl, rfl, rfl, rfl⟩
  recorded := by simp [Recorded]
  elsewhere _ _ := rfl
  picture _ := ⟨rfl, rfl, rfl⟩

theorem busFrame_of_readFrame {s t : State} (h : ReadFrame s t) : ∃ events, BusFrame s t events := by
  obtain ⟨events, hrec, hppu⟩ := h.io
  exact ⟨events, ⟨h.irqLine, h.params, h.calls, h.loop⟩, hrec, fun _ _ => by rw [h.ext],
    fun hw => ⟨hppu hw, h.ppuBus, h.nmiPending⟩⟩

theorem busFrame_of_storeEffect {a : Word} {d : Byte} {s t : State} (h : StoreEffect a d s t) :
    ∃ events, BusFrame s t events := by
  cases hw : inWindow a with
  | true =>
    obtain ⟨u, hport, -, -, -, -, hrec⟩ := h.inside hw
    obtain ⟨events, hport⟩ := portWrite_recorded hport
    refine ⟨events ++ [.cpuWrite a d], h.host, recorded_trans hport hrec, fun k _ => ?_, fun hfree => ?_⟩
    · exact h.bytes.elsewhere k (by simp [hw])
    · have hout := hfree (.cpuWrite a d) (by simp)
      rw [IoEvent.inWindow, hw] at hout
      cases hout
  | false =>
    obtain ⟨hppu, hbus, hnmi, -, hrec⟩ := h.outside hw
    refine ⟨[.cpuWrite a d], h.host, hrec, fun k hk => ?_, fun _ => ⟨hppu, hbus, hnmi⟩⟩
    exact h.bytes.elsewhere k (by simpa [hw] using hk)

/-- Every access of the processor bus, and so every instruction and every entry, has the frame of its transfers. -/
theorem busFrame_busRelation : BusRelation fun s t => ∃ events, BusFrame s t events where
  refl s := ⟨[], busFrame_setCpu s s.cpu⟩
  trans := by
    rintro s t u ⟨l, hl⟩ ⟨m, hm⟩
    exact ⟨l ++ m, hl.trans hm⟩
  cpu s c := ⟨[], busFrame_setCpu s c⟩
  read h := busFrame_of_readFrame (memRead_frame h)
  write h := busFrame_of_storeEffect (memWrite_effect h).2

/-- Settles O56, by the frame of the transfers of a CPU call; an NMI entry runs from the state with the pending flag
cleared. -/
theorem processorReachesThePpuOnlyByTheWindow : Obligations.ProcessorReachesThePpuOnlyByTheWindow := by
  intro s t h
  obtain ⟨-, -, events, hf⟩ | ⟨events, hf⟩ := busFrame_busRelation.clock h
  · obtain ⟨hirq, hparams, hcalls, hloop⟩ := hf.host
    refine ⟨⟨hirq, hparams, hcalls, hloop⟩, events, hf.recorded, hf.elsewhere, fun hw => ?_⟩
    obtain ⟨hppu, hbus, hnmi⟩ := hf.picture hw
    exact ⟨hppu, hbus, .inr hnmi⟩
  · refine ⟨hf.host, events, hf.recorded, hf.elsewhere, fun hw => ?_⟩
    obtain ⟨hppu, hbus, hnmi⟩ := hf.picture hw
    exact ⟨hppu, hbus, .inl hnmi⟩

end Sys2Proof.Stated
end

section
/-! PROOFS. Each instruction by its operation and operand (`Instr.view`): which shape its meaning has, and with what row. -/

namespace Sys2Proof.Stated

open Sys2Proof.Machine

/-- What a read operation does with its operand (R130 to R132, R146 to R149, R154 to R158). -/
def readAct : ReadOp → Byte → Cpu → Cpu
  | .lda => loadA
  | .ldx => loadX
  | .ldy => loadY
  | .and => andA
  | .ora => orA
  | .eor => eorA
  | .bit => bitA
  | .adc => addA
  | .sbc => subA
  | .cmp => compareA
  | .cpx => compareX
  | .cpy => compareY

/-- The register a store operation writes (R133 to R135). -/
def storeValue : StoreOp → Cpu → Byte
  | .sta => Cpu.a
  | .stx => Cpu.x
  | .sty => Cpu.y

/-- The result and flags of an operation that changes its operand (R150 to R153, R159, R160). -/
def modifyAct : ModifyOp → Byte → Flags → Byte × Flags
  | .asl => shiftLeft
  | .lsr => shiftRight
  | .rol => rotateLeft
  | .ror => rotateRight
  | .inc => increment
  | .dec => decrement

/-- The condition of a branch (R165 to R172). -/
def branchCond : BranchOp → Flags → Bool
  | .bpl => fun p => !p.n
  | .bmi => Flags.n
  | .bvc => fun p => !p.v
  | .bvs => Flags.v
  | .bcc => fun p => !p.c
  | .bcs => Flags.c
  | .bne => fun p => !p.z
  | .beq => Flags.z

theorem exec_read {i : Instr} {op : ReadOp} {src : Source} (h : i.view = .read op src) (s : State) :
    exec i s = readInstr src i.baseCycles i.pageExtra (readAct op) s := by
  cases i <;> cases h <;> rfl

theorem exec_store {i : Instr} {op : StoreOp} {m : MemOperand} (h : i.view = .store op m) (s : State) :
    exec i s = storeInstr m i.baseCycles (storeValue op) s := by
  cases i <;> cases h <;> rfl

theorem exec_modifyMemory {i : Instr} {op : ModifyOp} {m : MemOperand} (h : i.view = .modify op (.memory m)) (s : State) :
    exec i s = modifyMemory m i.baseCycles (modifyAct op) s := by
  cases i <;> cases h <;> rfl

theorem exec_modifyAccumulator {i : Instr} {op : ModifyOp} (h : i.view = .modify op .accumulator) (s : State) :
    exec i s = modifyAccumulator i.baseCycles (modifyAct op) s := by
  cases i <;> cases h <;> rfl

theorem exec_branch {i : Instr} {op : BranchOp} {rr : Byte} (h : i.view = .branch op rr) (s : State) :
    exec i s = branchInstr i.baseCycles (branchCond op) rr s := by
  cases i <;> cases h <;> rfl

end Sys2Proof.Stated
end

section
/-! PROOFS. The cost of an instruction, and the calls it occupies (spec/40_cpu_engine.md R100 to R105). -/

namespace Sys2Proof.Stated

open Sys2Proof.Machine

/-! ## What the parts of an instruction leave of the CPU -/

theorem effective_frame {m : MemOperand} {s t : State} {q : Word × Bool} (h : effective m s = .ok q t) :
    ReadFrame s t := by
  obtain ⟨q', t', ht, hframe⟩ := effective_ok m s
  rw [h] at ht
  cases ht
  exact hframe

theorem readOperand_frame {src : Source} {s t : State} {q : Byte × Bool} (h : readOperand src s = .ok q t) :
    ReadFrame s t := by
  cases src with
  | immediate b =>
    cases h
    exact .refl s
  | memory m =>
    obtain ⟨ea, s1, hea, h⟩ := Res.bind_eq_ok h
    obtain ⟨d, s2, hd, h⟩ := Res.bind_eq_ok h
    cases h
    exact (effective_frame hea).trans (memRead_frame hd)

theorem pull_cpu {s t : State} {r : Byte} (h : pull s = .ok r t) : t.cpu = { s.cpu with sp := s.cpu.sp + 1 } := by
  rw [pull_eq] at h
  cases h
  rfl

theorem pull16_cpu {s t : State} {w : Word} (h : pull16 s = .ok w t) :
    t.cpu = { s.cpu with sp := s.cpu.sp + 1 + 1 } := by
  obtain ⟨lo, s1, hlo, h⟩ := Res.bind_eq_ok h
  obtain ⟨hi, s2, hhi, h⟩ := Res.bind_eq_ok h
  cases h
  rw [pull_cpu hhi, pull_cpu hlo]

theorem fetchByte_cpu {s t : State} {b : Byte} (h : fetchByte s = .ok b t) :
    t.cpu = { s.cpu with pc := s.cpu.pc + 1 } := by
  obtain ⟨d, s1, hd, h⟩ := Res.bind_eq_ok h
  cases h
  rw [State.setPc_cpu, (memRead_frame hd).cpu]

/-- A fetch moves PC and no other register (R115). -/
theorem fetchInstr_cpu {s t : State} {i : Instr} (h : fetchInstr s = .ok i t) : ∃ pc, t.cpu = { s.cpu with pc := pc } := by
  obtain ⟨op, s1, hop, h⟩ := Res.bind_eq_ok h
  have hcpu := (memRead_frame hop).cpu
  split at h
  · cases h
  · cases h
    exact ⟨_, by rw [State.setPc_cpu, hcpu]⟩
  · obtain ⟨b, s2, hb, h⟩ := Res.bind_eq_ok h
    cases h
    exact ⟨_, by rw [fetchByte_cpu hb, State.setPc_cpu, hcpu]⟩
  · obtain ⟨lo, s2, hlo, h⟩ := Res.bind_eq_ok h
    obtain ⟨hi, s3, hhi, h⟩ := Res.bind_eq_ok h
    cases h
    exact ⟨_, by rw [fetchByte_cpu hhi, fetchByte_cpu hlo, State.setPc_cpu, hcpu]⟩

/-! ## The cost an instruction loads -/

/-- What an outcome of a run from `s` says of the countdown and the reset flag: a next state has a cost in this range
loaded, and the flag as it was (R33, R101). -/
def Loads (s : State) (lo hi : Nat) (o : Out) : Prop :=
  ∀ t, o = .next t → lo ≤ t.cpu.cycles ∧ t.cpu.cycles ≤ hi ∧ t.cpu.resetDone = s.cpu.resetDone

theorem Loads.mono {s : State} {lo hi lo' hi' : Nat} {o : Out} (h : Loads s lo hi o) (hlo : lo' ≤ lo) (hhi : hi ≤ hi') :
    Loads s lo' hi' o := by
  intro t ht
  obtain ⟨hl, hh, hdone⟩ := h t ht
  exact ⟨hlo.trans hl, hh.trans hhi, hdone⟩

theorem complete_loads {s : State} {r : Res Unit} {n : Nat}
    (hr : ∀ u, r = .ok () u → u.cpu.resetDone = s.cpu.resetDone) : Loads s n n (complete r n) := by
  intro t ht
  obtain ⟨u, hu, rfl⟩ := complete_eq_next ht
  exact ⟨le_rfl, le_rfl, hr u hu⟩

theorem readAct_resetDone (op : ReadOp) (m : Byte) (c : Cpu) : (readAct op m c).resetDone = c.resetDone := by
  cases op <;> rfl

theorem readInstr_loads (src : Source) (n : Nat) (flagged : Bool) (op : ReadOp) (s : State) :
    Loads s n (n + if flagged then 1 else 0) (readInstr src n flagged (readAct op) s) := by
  intro t ht
  obtain ⟨⟨m, crossed⟩, s1, hm, hu⟩ := Res.bind_eq_ok (finish_eq_next ht)
  cases hu
  refine ⟨Nat.le_add_right .., ?_, ?_⟩
  · cases flagged <;> cases crossed <;> simp [pagePenalty]
  · rw [State.setCycles_cpu, State.setCpu_cpu, readAct_resetDone, (readOperand_frame hm).cpu]

theorem storeInstr_loads (m : MemOperand) (n : Nat) (value : Cpu → Byte) (s : State) :
    Loads s n n (storeInstr m n value s) := by
  refine complete_loads fun u hu => ?_
  obtain ⟨ea, s1, hea, hu⟩ := Res.bind_eq_ok hu
  rw [(memWrite_effect hu).1, (effective_frame hea).cpu]

theorem modifyMemory_loads (m : MemOperand) (n : Nat) (act : Byte → Flags → Byte × Flags) (s : State) :
    Loads s n n (modifyMemory m n act s) := by
  refine complete_loads fun u hu => ?_
  obtain ⟨ea, s1, hea, hu⟩ := Res.bind_eq_ok hu
  obtain ⟨d, s2, hd, hu⟩ := Res.bind_eq_ok hu
  rw [(memWrite_effect hu).1, State.setP_cpu, (memRead_frame hd).cpu, (effective_frame hea).cpu]

theorem branchInstr_loads (n : Nat) (cond : Flags → Bool) (rr : Byte) (s : State) :
    Loads s n (n + 2) (branchInstr n cond rr s) := by
  intro t ht
  unfold branchInstr at ht
  split at ht
  · cases ht
    refine ⟨by simp only [State.setCycles_cpu]; omega, ?_, rfl⟩
    simp only [State.setCycles_cpu, pagePenalty]
    split <;> omega
  · cases ht
    exact ⟨le_rfl, Nat.le_add_right .., rfl⟩

/-- An entry by a vector above the PPU window has the cost 7 (R247). -/
theorem enter_loads (s : State) (ret : Word) (b : Bool) {vector : Word} (hv : 0x4000 ≤ vector.toNat)
    (hv' : 0x4000 ≤ (vector + 1).toNat) : Loads s 7 7 (complete (enter ret b vector s) 7) := by
  obtain ⟨lo, hi, t, ht, entered⟩ := enter_entered s ret b hv hv'
  intro u hu
  rw [ht] at hu
  cases hu
  rw [entered.cpu]
  exact ⟨le_rfl, le_rfl, rfl⟩

/-- The instructions that stand for themselves load their base cost. -/
theorem exec_single_loads {i : Instr} (h : i.view = .single) (s : State) : Loads s i.baseCycles i.baseCycles (exec i s) := by
  cases i with
  | tax | tay | txa | tya | tsx | txs | inx | iny | dex | dey | clc | sec | cli | sei | cld | sed | clv | nop | jmpAbs =>
    intro t ht
    cases ht
    exact ⟨le_rfl, le_rfl, rfl⟩
  | pha | php =>
    refine complete_loads fun u hu => ?_
    rw [push_eq] at hu
    cases hu
    rfl
  | pla | plp =>
    refine complete_loads fun u hu => ?_
    obtain ⟨r, s1, hr, hu⟩ := Res.bind_eq_ok hu
    cases hu
    change s1.cpu.resetDone = _
    rw [pull_cpu hr]
  | jmpInd a =>
    refine complete_loads fun u hu => ?_
    obtain ⟨ea, s1, hea, hu⟩ := Res.bind_eq_ok hu
    obtain ⟨lo, s2, hlo, hea⟩ := Res.bind_eq_ok hea
    obtain ⟨hi, s3, hhi, hea⟩ := Res.bind_eq_ok hea
    cases hea
    cases hu
    rw [State.setPc_cpu, (memRead_frame hhi).cpu, (memRead_frame hlo).cpu]
  | jsr a =>
    refine complete_loads fun u hu => ?_
    rw [push16_eq] at hu
    cases hu
    rfl
  | rts =>
    refine complete_loads fun u hu => ?_
    obtain ⟨w, s1, hw, hu⟩ := Res.bind_eq_ok hu
    cases hu
    rw [State.setPc_cpu, pull16_cpu hw]
  | brk => exact enter_loads s _ true (by decide) (by decide)
  | rti =>
    refine complete_loads fun u hu => ?_
    obtain ⟨r, s1, hr, hu⟩ := Res.bind_eq_ok hu
    obtain ⟨w, s2, hw, hu⟩ := Res.bind_eq_ok hu
    cases hu
    rw [State.setPc_cpu, pull16_cpu hw, State.setP_cpu, pull_cpu hr]
  | _ => cases h

/-- The cycles an instruction can take beyond its base cost: one for a page crossing where its row says so, two for a branch
taken to another page (R104, R108). -/
def maxPenalty (i : Instr) : Nat := if i.pageExtra then 1 else if i.mode = .relative then 2 else 0

theorem maxPenalty_branch {i : Instr} {op : BranchOp} {rr : Byte} (h : i.view = .branch op rr) : maxPenalty i = 2 := by
  cases i <;> cases h <;> rfl

theorem baseCycles_range (i : Instr) : 2 ≤ i.baseCycles ∧ i.baseCycles + maxPenalty i ≤ 7 := by
  cases i <;> exact ⟨Nat.le_of_ble_eq_true rfl, Nat.le_of_ble_eq_true rfl⟩

/-- The cost of an instruction is its base cost and at most its penalties (R103, R104, R108). -/
theorem exec_loads (i : Instr) (s : State) : Loads s i.baseCycles (i.baseCycles + maxPenalty i) (exec i s) := by
  have hbase : i.baseCycles ≤ i.baseCycles + maxPenalty i := Nat.le_add_right ..
  cases hv : i.view with
  | read op src =>
    rw [exec_read hv]
    refine (readInstr_loads src _ i.pageExtra op s).mono le_rfl ?_
    unfold maxPenalty
    split <;> omega
  | store op m =>
    rw [exec_store hv]
    exact (storeInstr_loads m _ _ s).mono le_rfl hbase
  | modify op target =>
    cases target with
    | accumulator =>
      rw [exec_modifyAccumulator hv]
      intro t ht
      cases ht
      exact ⟨le_rfl, hbase, rfl⟩
    | memory m =>
      rw [exec_modifyMemory hv]
      exact (modifyMemory_loads m _ _ s).mono le_rfl hbase
  | branch op rr =>
    rw [exec_branch hv, maxPenalty_branch hv]
    exact branchInstr_loads _ _ rr s
  | single => exact (exec_single_loads hv s).mono le_rfl hbase

/-! ## A CPU call -/

theorem runInstr_eq_next {s t : State} (h : runInstr s = .next t) :
    ∃ i s1, fetchInstr s = .ok i s1 ∧ exec i s1 = .next t := by
  unfold runInstr at h
  split at h
  · exact ⟨_, _, ‹_›, h⟩
  · cases h
  · cases h

theorem beginCall_of_noInterrupt {s : State} (h : NoInterrupt s) : beginCall s = runInstr s := by
  obtain ⟨hnmi, hirq⟩ := h
  unfold beginCall
  rw [if_neg (by simp [hnmi]), if_neg (by simpa using hirq)]

/-- An interrupt found at a boundary is taken by an entry of cost 7, and the CPU stays reset (R246, R248, R249). -/
theorem beginCall_of_interrupt {s : State} (h : ¬NoInterrupt s) : Loads s 7 7 (beginCall s) := by
  unfold beginCall
  by_cases hnmi : s.nmiPending = true
  · rw [if_pos hnmi]
    exact enter_loads { s with nmiPending := false } _ false (by decide) (by decide)
  · have hirq : (s.irqLine && !s.cpu.p.i) = true := by
      by_contra hn
      exact h ⟨by simpa using hnmi, by simpa using hn⟩
    rw [if_neg hnmi, if_pos hirq]
    exact enter_loads s _ false (by decide) (by decide)

theorem beginCall_loads (s : State) : Loads s 2 7 (beginCall s) := by
  by_cases hi : NoInterrupt s
  · intro t ht
    rw [beginCall_of_noInterrupt hi] at ht
    obtain ⟨i, s1, hf, ht⟩ := runInstr_eq_next ht
    obtain ⟨pc, hpc⟩ := fetchInstr_cpu hf
    obtain ⟨hmin, hmax⟩ := baseCycles_range i
    obtain ⟨hlo, hhi, hdone⟩ := (exec_loads i s1).mono hmin hmax t ht
    exact ⟨hlo, hhi, by rw [hdone, hpc]⟩
  · exact (beginCall_of_interrupt hi).mono (by decide) le_rfl

/-- A CPU call that answers finds the CPU reset, and either counts down or begins and then counts one (R100 to R102, R105). -/
theorem cpuClock_eq_next {s t : State} (h : cpuClock s = .next t) : s.cpu.resetDone = true ∧
    ((0 < s.cpu.cycles ∧ t = s.setCycles (s.cpu.cycles - 1)) ∨
      (s.cpu.cycles = 0 ∧ ∃ u, beginCall s = .next u ∧ t = u.setCycles (u.cpu.cycles - 1))) := by
  unfold cpuClock at h
  split at h
  · cases h
  · rename_i hreset
    refine ⟨by simpa using hreset, ?_⟩
    split at h
    · rename_i hzero
      cases hb : beginCall s with
      | next u =>
        rw [hb] at h
        cases h
        exact .inr ⟨hzero, u, rfl, rfl⟩
      | fault f => rw [hb] at h; cases h
      | refused r => rw [hb] at h; cases h
    · rename_i hpos
      cases h
      exact .inl ⟨Nat.pos_of_ne_zero hpos, rfl⟩

theorem cpuClock_countdown {s : State} (hr : s.cpu.resetDone = true) (hc : 0 < s.cpu.cycles) :
    cpuClock s = .next (s.setCycles (s.cpu.cycles - 1)) := by
  unfold cpuClock
  rw [if_neg (by simp [hr]), if_neg (Nat.ne_of_gt hc)]
  rfl

theorem clocks_countdown {k : Nat} {s : State} (hr : s.cpu.resetDone = true) (hk : k ≤ s.cpu.cycles) :
    clocks k s = .next (s.setCycles (s.cpu.cycles - k)) := by
  induction k generalizing s with
  | zero => rfl
  | succ k ih =>
    rw [clocks, cpuClock_countdown hr (by omega)]
    refine (ih (s := s.setCycles (s.cpu.cycles - 1)) hr (by simp only [State.setCycles_cpu]; omega)).trans ?_
    rw [Nat.add_comm k 1, ← Nat.sub_sub]
    rfl

/-- Settles O8, by the range of the cost the begin call loads and the countdown of the calls after it. -/
theorem beginCallOccupiesItsCost : Obligations.BeginCallOccupiesItsCost := by
  intro s t hzero h
  obtain ⟨hreset, ⟨hpos, -⟩ | ⟨-, u, hu, rfl⟩⟩ := cpuClock_eq_next h
  · omega
  obtain ⟨hlo, hhi, hdone⟩ := beginCall_loads s u hu
  refine ⟨fun hi => ?_, fun hi => ?_, ?_, ?_, fun k hk => clocks_countdown (hdone.trans hreset) hk⟩
  · obtain ⟨hge, hle, -⟩ := beginCall_of_interrupt hi u hu
    simp only [State.setCycles_cpu]
    omega
  · rw [beginCall_of_noInterrupt hi] at hu
    obtain ⟨i, s1, hf, hu⟩ := runInstr_eq_next hu
    exact ⟨i, s1, u, hf, hu, Nat.sub_add_cancel (by omega)⟩
  · simp only [State.setCycles_cpu]
    omega
  · simp only [State.setCycles_cpu]
    omega

end Sys2Proof.Stated
end

section
/-! PROOFS. The invariant of the machine: it holds at reset, and every call of the host keeps it. -/

namespace Sys2Proof.Stated

open Sys2Proof.Machine

/-- The invariant without the countdown: what it says of the picture core, the memories and the parameters. -/
structure PictureInv (s : State) : Prop where
  params : s.params.wf
  ext : Memory.wf 0x10000 s.ext.cells
  ppuBus : Memory.wf 0x4000 s.ppuBus.cells
  oam : s.ppu.oam.wf
  scanline : -1 ≤ s.ppu.scanline ∧ s.ppu.scanline ≤ 260
  dot : s.ppu.dot ≤ 340
  nmiOutput : s.ppu.nmiOutputPrev = nmiCondition s.ppu
  sprites : s.params.spriteStatus ≠ .draw → s.ppu.sprite0Hit = false ∧ s.ppu.spriteOverflow = false

theorem inv_iff (s : State) : Inv s ↔ PictureInv s ∧ s.cpu.cycles ≤ max 6 s.params.resetCycles := by
  constructor
  · rintro ⟨params, ext, ppuBus, oam, countdown, scanline, dot, nmiOutput, sprites⟩
    exact ⟨⟨params, ext, ppuBus, oam, scanline, dot, nmiOutput, sprites⟩, countdown⟩
  · rintro ⟨⟨params, ext, ppuBus, oam, scanline, dot, nmiOutput, sprites⟩, countdown⟩
    exact ⟨params, ext, ppuBus, oam, countdown, scanline, dot, nmiOutput, sprites⟩

/-- This part reads the parameters, the bytes of the two buses and the picture core, and nothing else. -/
theorem PictureInv.of_eq {s t : State} (h : PictureInv s) (hparams : t.params = s.params) (hext : t.ext = s.ext)
    (hbus : t.ppuBus = s.ppuBus) (hppu : t.ppu = s.ppu) : PictureInv t := by
  obtain ⟨params, ext, ppuBus, oam, scanline, dot, nmiOutput, sprites⟩ := h
  constructor <;> simp only [hparams, hext, hbus, hppu] <;> assumption

/-! ## The processor's accesses -/

theorem PictureInv.portRead {i : Nat} {s t : State} {d : Byte} (h : PictureInv s)
    (hr : portRead i s = .ok d t) : PictureInv t := by
  obtain ⟨hstatus, hdata, hother⟩ := portRead_keeps hr
  obtain ⟨params, ext, ppuBus, oam, scanline, dot, nmiOutput, sprites⟩ := h
  by_cases h2 : i = 2
  · rw [hstatus h2]
    exact ⟨params, ext, ppuBus, oam, scanline, dot, rfl, sprites⟩
  by_cases h7 : i = 7
  · obtain ⟨buffer, events, ht⟩ := hdata h7
    rw [ht]
    exact ⟨params, ext, ppuBus, oam, scanline, dot, nmiOutput, sprites⟩
  · obtain ⟨n, ht⟩ := hother h2 h7
    rw [ht]
    exact ⟨params, ext, ppuBus, oam, scanline, dot, nmiOutput, sprites⟩

/-- The three register writes that reach the edge memory, OAM and the PPU bus (R189, R196, R202). -/
theorem portWrite_answer {i : Nat} {s t : State} {d : Byte} (hw : portWrite i d s = .ok () t) :
    (i = 0 → t = writeCtrl d s) ∧ (i = 4 → t = writeOamData d s) ∧ (i = 7 → t = writeData d s) := by
  unfold portWrite at hw
  split at hw
  · cases hw
  split at hw
  · cases hw
  refine ⟨?_, ?_, ?_⟩ <;> (rintro rfl; cases hw; rfl)

theorem portWrite_nmiOutput {i : Nat} {s t : State} {d : Byte} (hw : portWrite i d s = .ok () t)
    (h : s.ppu.nmiOutputPrev = nmiCondition s.ppu) : t.ppu.nmiOutputPrev = nmiCondition t.ppu := by
  obtain ⟨⟨ctrl, mask, addr, oam, w, v, u, x, prev, hppu⟩, hctrl, -⟩ := portWrite_keeps hw
  obtain ⟨hanswer, -, -⟩ := portWrite_answer hw
  by_cases hi : i = 0
  · rw [hanswer hi]
    rfl
  · obtain ⟨-, hprev, hctrl⟩ := hctrl hi
    rw [hprev, h, nmiCondition, nmiCondition, hctrl, hppu]

theorem portWrite_oam_wf {i : Nat} {s t : State} {d : Byte} (hw : portWrite i d s = .ok () t) (h : s.ppu.oam.wf) :
    t.ppu.oam.wf := by
  obtain ⟨-, -, -, -, hoam⟩ := portWrite_keeps hw
  obtain ⟨-, hanswer, -⟩ := portWrite_answer hw
  by_cases hi : i = 4
  · rw [hanswer hi]
    exact oamStore_wf h _ d
  · rw [hoam hi]
    exact h

theorem portWrite_ppuBus_wf {i : Nat} {s t : State} {d : Byte} (hw : portWrite i d s = .ok () t)
    (h : Memory.wf 0x4000 s.ppuBus.cells) : Memory.wf 0x4000 t.ppuBus.cells := by
  obtain ⟨-, -, hbus, -, -⟩ := portWrite_keeps hw
  obtain ⟨-, -, hanswer⟩ := portWrite_answer hw
  by_cases hi : i = 7
  · rw [hanswer hi]
    exact Bus.store_wf h (dataPortAddress s.ppu).isLt d
  · rw [(hbus hi).1]
    exact h

theorem PictureInv.portWrite {i : Nat} {s t : State} {d : Byte} (h : PictureInv s)
    (hw : portWrite i d s = .ok () t) : PictureInv t := by
  obtain ⟨-, hext, host⟩ := portWrite_frame hw
  obtain ⟨⟨ctrl, mask, addr, oam, w, v, u, x, prev, hppu⟩, -⟩ := portWrite_keeps hw
  exact {
    params := by rw [host.params]; exact h.params
    ext := by rw [hext]; exact h.ext
    ppuBus := portWrite_ppuBus_wf hw h.ppuBus
    oam := portWrite_oam_wf hw h.oam
    scanline := by rw [hppu]; exact h.scanline
    dot := by rw [hppu]; exact h.dot
    nmiOutput := portWrite_nmiOutput hw h.nmiOutput
    sprites := by rw [host.params, hppu]; exact h.sprites }

theorem PictureInv.memRead {a : Word} {s t : State} {d : Byte} (h : PictureInv s) (hr : memRead a s = .ok d t) :
    PictureInv t := by
  unfold Machine.memRead at hr
  split at hr
  · obtain ⟨r, u, hu, hr⟩ := Res.bind_eq_ok hr
    cases hr
    exact (h.portRead hu).of_eq rfl rfl rfl rfl
  · cases hr
    exact h.of_eq rfl rfl rfl rfl

theorem PictureInv.memWrite {a : Word} {s t : State} {d : Byte} (h : PictureInv s) (hw : memWrite a d s = .ok () t) :
    PictureInv t := by
  unfold Machine.memWrite at hw
  split at hw
  · obtain ⟨_, u, hu, hw⟩ := Res.bind_eq_ok hw
    cases hw
    exact (h.portWrite hu).of_eq rfl rfl rfl rfl
  · cases hw
    obtain ⟨params, ext, ppuBus, oam, scanline, dot, nmiOutput, sprites⟩ := h
    exact ⟨params, Bus.store_wf ext a.isLt d, ppuBus, oam, scanline, dot, nmiOutput, sprites⟩

/-- Every access of the processor bus keeps this part of the invariant, and so does every instruction and every entry. -/
theorem pictureInv_busRelation : BusRelation fun s t => PictureInv s → PictureInv t where
  refl _ := id
  trans h k := k ∘ h
  cpu _ _ h := h.of_eq rfl rfl rfl rfl
  read hr h := h.memRead hr
  write hw h := h.memWrite hw

/-! ## The calls of the CPU -/

theorem PictureInv.cpuClock {s t : State} (h : PictureInv s) (hc : cpuClock s = .next t) : PictureInv t := by
  obtain ⟨-, -, hkeep⟩ | hkeep := pictureInv_busRelation.clock hc
  · exact hkeep (h.of_eq rfl rfl rfl rfl)
  · exact hkeep h

theorem cpuClock_params {s t : State} (h : cpuClock s = .next t) : t.params = s.params := by
  obtain ⟨host, -⟩ := processorReachesThePpuOnlyByTheWindow s t h
  exact host.params

theorem cpuClock_keeps_inv {s t : State} (h : Inv s) (hc : cpuClock s = .next t) : Inv t := by
  rw [inv_iff] at h ⊢
  obtain ⟨hpic, hcount⟩ := h
  refine ⟨hpic.cpuClock hc, ?_⟩
  rw [cpuClock_params hc]
  obtain ⟨-, ⟨-, rfl⟩ | ⟨-, u, hu, rfl⟩⟩ := cpuClock_eq_next hc
  · exact (Nat.sub_le ..).trans hcount
  · obtain ⟨-, hmax, -⟩ := beginCall_loads s u hu
    simp only [State.setCycles_cpu]
    omega

/-- The CPU reset in closed form: two reads of the vector, the named registers and the countdown loaded, the pending NMI
cleared (R260). -/
theorem cpuReset_eq (s : State) : ∃ lo hi,
    lo = extRead 0xFFFC s ∧ hi = extRead 0xFFFD (s.record (.cpuRead 0xFFFC lo)) ∧
    cpuReset s = .ok () { s.recordAll [.cpuRead 0xFFFC lo, .cpuRead 0xFFFD hi] with
      nmiPending := false
      cpu := { a := s.params.cpuResetRegs.a, x := s.params.cpuResetRegs.x, y := s.params.cpuResetRegs.y
               sp := s.params.cpuResetRegs.sp, p := s.params.cpuResetRegs.p, pc := word16 hi lo
               cycles := s.params.resetCycles, resetDone := true } } := by
  refine ⟨_, _, rfl, rfl, ?_⟩
  have hlo : inWindow 0xFFFC = false := by decide
  have hhi : inWindow 0xFFFD = false := by decide
  rw [cpuReset, memRead16, resetVector, memRead_outside hlo, Res.bind_ok, show (0xFFFC + 1 : Word) = 0xFFFD from rfl,
    memRead_outside hhi]
  simp [State.record, State.recordAll]

theorem cpuReset_keeps_inv {s t : State} (h : Inv s) (hc : cpuReset s = .ok () t) : Inv t := by
  obtain ⟨lo, hi, -, -, heq⟩ := cpuReset_eq s
  rw [heq] at hc
  cases hc
  rw [inv_iff] at h ⊢
  obtain ⟨hpic, -⟩ := h
  exact ⟨hpic.of_eq rfl rfl rfl rfl, Nat.le_max_right ..⟩

/-! ## The calls of the picture core -/

theorem PictureInv.renderDot {s : State} (h : PictureInv s) : PictureInv (renderDot s) := by
  obtain ⟨_, _, _, _, _, _, _, _, _, _, heq⟩ := renderDot_form s
  obtain ⟨params, ext, ppuBus, oam, scanline, dot, nmiOutput, sprites⟩ := h
  rw [heq]
  exact ⟨params, ext, ppuBus, oam, scanline, dot, nmiOutput, sprites⟩

theorem PictureInv.pixelDot {s : State} (h : PictureInv s) : PictureInv (pixelDot s) := by
  unfold Machine.pixelDot
  split
  · exact h.of_eq rfl rfl rfl rfl
  · exact h

theorem statusEvents_nmiOutput (line : Int) (d : Nat) {s : State} (h : s.ppu.nmiOutputPrev = nmiCondition s.ppu) :
    (statusEvents line d s).ppu.nmiOutputPrev = nmiCondition (statusEvents line d s).ppu := by
  obtain ⟨hvblank, hprev, -⟩ := statusEvents_vblank line d s
  obtain ⟨_, _, _, _, _, _, heq⟩ := statusEvents_form line d s
  have hctrl : (statusEvents line d s).ppu.ctrl = s.ppu.ctrl := by rw [heq]
  rw [nmiCondition, hvblank, hprev, hctrl]
  split
  · exact (Bool.true_and _).symm
  · split
    · exact (Bool.false_and _).symm
    · exact h

theorem PictureInv.statusEvents (line : Int) (d : Nat) {s : State} (h : PictureInv s) :
    PictureInv (statusEvents line d s) := by
  have hnmi := statusEvents_nmiOutput line d h.nmiOutput
  obtain ⟨-, -, -, hhit, hoverflow⟩ := statusEvents_sprites line d s
  obtain ⟨_, _, _, _, _, _, heq⟩ := statusEvents_form line d s
  exact {
    params := by rw [heq]; exact h.params
    ext := by rw [heq]; exact h.ext
    ppuBus := by rw [heq]; exact h.ppuBus
    oam := by rw [heq]; exact h.oam
    scanline := by rw [heq]; exact h.scanline
    dot := by rw [heq]; exact h.dot
    nmiOutput := hnmi
    sprites := by
      rw [(statusEvents_cpuSideKept line d s).params]
      intro hdraw
      obtain ⟨hs, ho⟩ := h.sprites hdraw
      exact ⟨hhit hdraw hs, hoverflow hdraw ho⟩ }

theorem PictureInv.advance {s : State} (h : PictureInv s) : PictureInv (s.mapPpu advance) := by
  obtain ⟨hline, hdot⟩ := advance_range h.scanline h.dot
  obtain ⟨line, d, heq⟩ := advance_form s.ppu
  obtain ⟨params, ext, ppuBus, oam, -, -, nmiOutput, sprites⟩ := h
  refine ⟨params, ext, ppuBus, ?_, hline, hdot, ?_, ?_⟩ <;> simp only [State.mapPpu_ppu, heq] <;> assumption

theorem PictureInv.ppuClock {s t : State} (h : PictureInv s) (hc : ppuClock s = .ok () t) : PictureInv t := by
  unfold Machine.ppuClock at hc
  split at hc
  · cases hc
  · cases hc
    exact (h.renderDot.pixelDot.statusEvents _ _).advance

theorem PictureInv.ppuReset {s : State} (h : PictureInv s) : PictureInv (ppuReset s) := by
  obtain ⟨hlow, hhigh, hdot⟩ := h.params
  exact ⟨h.params, h.ext, h.ppuBus, ⟨.nil, nofun⟩, ⟨hlow, hhigh⟩, hdot, rfl, fun _ => ⟨rfl, rfl⟩⟩

/-! ## Every step -/

/-- A call that leaves the processor's side keeps the invariant when it keeps the rest of it. -/
theorem inv_of_cpuSideKept {s t : State} (h : Inv s) (hkept : CpuSideKept s t) (hpic : PictureInv s → PictureInv t) :
    Inv t := by
  rw [inv_iff] at h ⊢
  obtain ⟨hp, hcount⟩ := h
  exact ⟨hpic hp, by rw [hkept.cpu, hkept.params]; exact hcount⟩

theorem runCall_keeps_inv {c : HostCall} {s t : State} (h : Inv s) (hc : runCall c s = .next t) : Inv t := by
  have hkept (h1 : c ≠ .cpuReset) (h2 : c ≠ .cpuClock) := pictureCallsLeaveTheProcessor c s t h1 h2 hc
  cases c with
  | cpuReset => exact cpuReset_keeps_inv h (finish_eq_next hc)
  | cpuClock => exact cpuClock_keeps_inv h hc
  | ppuReset =>
    refine inv_of_cpuSideKept h (hkept nofun nofun) fun hp => ?_
    cases hc
    exact hp.ppuReset
  | ppuClock => exact inv_of_cpuSideKept h (hkept nofun nofun) fun hp => hp.ppuClock (finish_eq_next hc)
  | ppuRead i =>
    refine inv_of_cpuSideKept h (hkept nofun nofun) fun hp => ?_
    obtain ⟨d, u, hu, hc⟩ := Res.bind_eq_ok (finish_eq_next hc)
    cases hc
    exact (hp.portRead hu).of_eq rfl rfl rfl rfl
  | ppuWrite i d => exact inv_of_cpuSideKept h (hkept nofun nofun) fun hp => hp.portWrite (finish_eq_next hc)
  | inspect =>
    cases hc
    exact h
  | setIrq level =>
    refine inv_of_cpuSideKept h (hkept nofun nofun) fun hp => ?_
    cases hc
    exact hp.of_eq rfl rfl rfl rfl

theorem step_of_nextCall {s : State} {c : HostCall} {rest : List HostCall} (h : nextCall s = some (c, rest)) :
    step s = runCall c { s with calls := rest, io := [] } := by
  rw [step, stepCall, h]
  rfl

theorem step_of_idle {s : State} (h : nextCall s = none) : step s = .next { s with io := [] } := by
  rw [step, stepCall, h]

/-- The invariant reads neither the schedule nor the list of transfers. -/
theorem inv_startCall {s : State} (h : Inv s) (calls : List HostCall) : Inv { s with calls := calls, io := [] } := by
  rw [inv_iff] at h ⊢
  obtain ⟨hpic, hcount⟩ := h
  exact ⟨hpic.of_eq rfl rfl rfl rfl, hcount⟩

/-- Settles O60, by cases on the call: the CPU's calls keep the part without the countdown because every bus access does,
the picture core's keep it field by field, and the countdown moves in CPU calls alone, where its cost is at most 7. -/
theorem stepKeepsTheInvariant : Obligations.StepKeepsTheInvariant := by
  intro s t h hs
  cases hn : nextCall s with
  | none =>
    rw [step_of_idle hn] at hs
    cases hs
    exact inv_startCall h _
  | some q =>
    rw [step_of_nextCall hn] at hs
    exact runCall_keeps_inv (inv_startCall h _) hs

end Sys2Proof.Stated
end

section
/-! PROOFS. The next call of the schedule, the two resets, and the invariant at reset (R257, R260, R262). -/

namespace Sys2Proof.Stated

open Sys2Proof.Machine

/-- Settles O6, by the next call of the schedule. -/
theorem stepMakesTheNextCall : Obligations.StepMakesTheNextCall := by
  refine ⟨fun s c rest hcalls => ?_, fun s c rest hcalls hloop => ?_, fun s hcalls hloop => ?_, fun _ => rfl,
    fun _ _ => rfl⟩
  · exact step_of_nextCall (by rw [nextCall, hcalls])
  · exact step_of_nextCall (by rw [nextCall, hcalls, hloop])
  · exact step_of_idle (by rw [nextCall, hcalls, hloop])

/-- Settles O57, by the closed form of the reset. -/
theorem cpuResetLoadsItsValues : Obligations.CpuResetLoadsItsValues := by
  intro s
  obtain ⟨lo, hi, hlo, hhi, heq⟩ := cpuReset_eq s
  refine ⟨lo, hi, _, heq, rfl, rfl, rfl, rfl, ⟨rfl, rfl, rfl, rfl⟩, ⟨rfl, rfl⟩, rfl, fun hk => ?_, fun hk => ?_,
    fun hp => ?_⟩
  · rw [hlo]
    exact extRead_plain hk
  · rw [hhi]
    exact extRead_plain hk
  · have hbyte : Params.spec.cpuResetRegs.p.toByte = 0x24 := by decide
    rw [hp]
    exact ⟨rfl, rfl, rfl, rfl, hbyte, rfl⟩

/-- Settles O58: the reset writes its values whatever the state before. -/
theorem ppuResetLoadsItsValues : Obligations.PpuResetLoadsItsValues :=
  fun s => ⟨ppuReset s, rfl, rfl, rfl⟩

/-- Settles O59, field by field. -/
theorem invariantHoldsAtReset : Obligations.InvariantHoldsAtReset where
  params := by decide
  ext := reset_memory_wf.1
  ppuBus := reset_memory_wf.2
  oam := by decide
  countdown := by decide
  scanline := by decide
  dot := by decide
  nmiOutput := rfl
  sprites _ := ⟨rfl, rfl⟩

end Sys2Proof.Stated
end

section
/-! PROOFS. The stack instructions and BRK (spec/43_stack.md R142 to R145, R176). -/

namespace Sys2Proof.Stated

open Sys2Proof.Machine

theorem setNZ_eq_withNZ (r : Byte) (p : Flags) : p.setNZ r = withNZ r p := by
  simp only [Flags.setNZ, withNZ, BitVec.msb_eq_getLsbD_last]
  rfl

/-- A push that ends an instruction: one byte written at the stack byte, SP down by one, the cost loaded (R106). -/
theorem complete_push (d : Byte) (n : Nat) (s : State) : ∃ t, complete (push d s) n = .next t ∧
    t.cpu = { s.cpu with sp := s.cpu.sp - 1, cycles := n } ∧ Pushed s t [(stackByte s.cpu.sp, d)] := by
  rw [push_eq, complete_ok]
  exact ⟨_, rfl, rfl, writesBytes_store rfl, ⟨rfl, rfl⟩, ⟨rfl, rfl, rfl, rfl⟩, rfl, rfl, rfl, rfl⟩

/-- A pull reads the stack byte above SP, which is no address of the PPU window, and moves SP up by one (R106). -/
theorem pull_reads (s : State) : ∃ r s1, memRead (stackByte (s.cpu.sp + 1)) s = .ok r s1 ∧ ReadFrame s s1 ∧
    s1.ppu = s.ppu ∧ pull s = .ok r (s1.setSp (s.cpu.sp + 1)) := by
  have hread := memRead_outside (stackAddress_outside (s.cpu.sp + 1)) s
  exact ⟨_, _, hread, memRead_frame hread, rfl, pull_eq s⟩

/-- Settles O21, by the push and the pull that end the two instructions. -/
theorem accumulatorPushAndPull : Obligations.AccumulatorPushAndPull := by
  refine ⟨⟨rfl, fun s => complete_push s.cpu.a 3 s⟩, rfl, fun s => ?_⟩
  obtain ⟨r, s1, hread, hframe, hppu, hpull⟩ := pull_reads s
  refine ⟨r, s1, hread, hframe, hppu, ?_⟩
  rw [exec, execPla, hpull, Res.bind_ok, complete_ok, ← setNZ_eq_withNZ, ← hframe.cpu]
  rfl

/-- The bits of P as a byte (R23). -/
theorem toByte_bits (p : Flags) : p.toByte.getLsbD 7 = p.n ∧ p.toByte.getLsbD 6 = p.v ∧ p.toByte.getLsbD 3 = p.d ∧
    p.toByte.getLsbD 2 = p.i ∧ p.toByte.getLsbD 1 = p.z ∧ p.toByte.getLsbD 0 = p.c := by
  have h := ofPulled_toByte p
  exact ⟨congrArg Flags.n h, congrArg Flags.v h, congrArg Flags.d h, congrArg Flags.i h, congrArg Flags.z h,
    congrArg Flags.c h⟩

/-- Settles O22, by the push and the pull and the bits of P as a byte. -/
theorem statusPushAndPull : Obligations.StatusPushAndPull := by
  refine ⟨⟨rfl, fun s => ?_⟩, rfl, fun s => ?_⟩
  · obtain ⟨t, ht, hcpu, hpushed⟩ := complete_push (s.cpu.p.toByte ||| 0x30) 3 s
    obtain ⟨hn, hv, hd, hi, hz, hc⟩ := toByte_bits s.cpu.p
    refine ⟨_, t, ht, hcpu, hpushed, ?_⟩
    simp only [BitVec.getLsbD_or, hn, hv, hd, hi, hz, hc, toByte_unused]
    simp
  · obtain ⟨r, s1, hread, hframe, hppu, hpull⟩ := pull_reads s
    refine ⟨r, s1, hread, hframe, hppu, ?_⟩
    rw [exec, execPlp, hpull, Res.bind_ok, complete_ok, ← hframe.cpu]
    rfl

/-- Settles O34, by what an entry does. -/
theorem breakTakesTheEntry : Obligations.BreakTakesTheEntry :=
  ⟨rfl, fun s => enter_entered s _ true (by decide) (by decide)⟩

end Sys2Proof.Stated
end

section
/-! PROOFS. The scroll arithmetic on `v` by its fields (spec/49_ppu_rendering.md R214 to R217). -/

namespace Sys2Proof.Stated

open Sys2Proof.Machine

/-! ## The bits and the numbers of the fields -/

/-- The bits of a VRAM address (R42). -/
theorem getLsbD_vramAddress (fy : BitVec 3) (nt : BitVec 2) (cy cx : BitVec 5) (i : Nat) :
    (vramAddress fy nt cy cx).getLsbD i =
      if i < 5 then cx.getLsbD i else if i < 10 then cy.getLsbD (i - 5) else if i < 12 then nt.getLsbD (i - 10)
        else fy.getLsbD (i - 12) := by
  simp only [vramAddress, BitVec.getLsbD_append, Nat.sub_sub]
  grind

theorem vramAddress_toNat (fy : BitVec 3) (nt : BitVec 2) (cy cx : BitVec 5) :
    (vramAddress fy nt cy cx).toNat = 4096 * fy.toNat + 1024 * nt.toNat + 32 * cy.toNat + cx.toNat := by
  simp only [vramAddress, BitVec.toNat_append]
  rw [← Nat.shiftLeft_add_eq_or_of_lt cx.isLt, ← Nat.shiftLeft_add_eq_or_of_lt cy.isLt,
    ← Nat.shiftLeft_add_eq_or_of_lt nt.isLt]
  simp only [Nat.shiftLeft_eq]
  omega

theorem coarseX_toNat (v : BitVec 15) : (coarseX v).toNat = v.toNat % 32 := by
  simp [coarseX]

theorem coarseY_toNat (v : BitVec 15) : (coarseY v).toNat = v.toNat / 32 % 32 := by
  simp [coarseY, Nat.shiftRight_eq_div_pow]

theorem nametable_toNat (v : BitVec 15) : (nametable v).toNat = v.toNat / 1024 % 4 := by
  simp [nametable, Nat.shiftRight_eq_div_pow]

theorem fineY_toNat (v : BitVec 15) : (fineY v).toNat = v.toNat / 4096 := by
  have := v.isLt
  simp [fineY, Nat.shiftRight_eq_div_pow]
  omega

/-! ## The steps and the copies -/

theorem horizontalCopy_eq_copyX (v t : BitVec 15) : horizontalCopy v t = copyX v t := by
  apply BitVec.eq_of_getLsbD_eq
  intro i hi
  rw [copyX, getLsbD_vramAddress, BitVec.getLsbD_append]
  interval_cases i <;> simp [horizontalCopy, fineY, nametable, coarseY, coarseX]

theorem verticalCopy_eq_copyY (v t : BitVec 15) : verticalCopy v t = copyY v t := by
  apply BitVec.eq_of_getLsbD_eq
  intro i hi
  rw [copyY, getLsbD_vramAddress, BitVec.getLsbD_append]
  interval_cases i <;> simp [verticalCopy, fineY, nametable, coarseY, coarseX]

theorem and31_eq_31_iff (v : BitVec 15) : v &&& 0x001F = 31 ↔ coarseX v = 31 := by
  rw [← BitVec.toNat_inj, ← BitVec.toNat_inj, coarseX_toNat, BitVec.toNat_and]
  change v.toNat &&& 2 ^ 5 - 1 = 31 ↔ _
  rw [Nat.and_two_pow_sub_one_eq_mod]
  rfl

theorem incrementX_eq_stepX (v : BitVec 15) : incrementX v = stepX v := by
  unfold incrementX stepX
  by_cases hx : coarseX v = 31
  · rw [if_pos hx, if_pos ((and31_eq_31_iff v).2 hx)]
    apply BitVec.eq_of_getLsbD_eq
    intro i hi
    rw [getLsbD_vramAddress]
    interval_cases i <;> simp [fineY, nametable, coarseY]
  · rw [if_neg hx, if_neg (mt (and31_eq_31_iff v).1 hx)]
    apply BitVec.eq_of_toNat_eq
    rw [← BitVec.toNat_inj, coarseX_toNat] at hx
    have hv := v.isLt
    simp only [vramAddress_toNat, BitVec.toNat_add, fineY_toNat, nametable_toNat, coarseY_toNat, coarseX_toNat,
      BitVec.reduceToNat] at hx ⊢
    omega

theorem coarseY_and_0FFF (v : BitVec 15) : (v &&& 0x0FFF).extractLsb' 5 5 = coarseY v := by
  apply BitVec.eq_of_getLsbD_eq
  intro i hi
  interval_cases i <;> simp [coarseY]

/-- The coarse Y step by fields, with fine Y already 0 (R215). -/
theorem incrementCoarseY_fields (v : BitVec 15) : incrementCoarseY (v &&& 0x0FFF) =
    if coarseY v = 29 then vramAddress 0 (nametable v ^^^ 2) 0 (coarseX v)
    else if coarseY v = 31 then vramAddress 0 (nametable v) 0 (coarseX v)
    else vramAddress 0 (nametable v) (coarseY v + 1) (coarseX v) := by
  simp only [incrementCoarseY, coarseY_and_0FFF]
  split
  · apply BitVec.eq_of_getLsbD_eq
    intro i hi
    rw [getLsbD_vramAddress]
    interval_cases i <;> simp [nametable, coarseX]
  split
  · apply BitVec.eq_of_getLsbD_eq
    intro i hi
    rw [getLsbD_vramAddress]
    interval_cases i <;> simp [nametable, coarseX]
  · generalize coarseY v + 1 = cy
    apply BitVec.eq_of_getLsbD_eq
    intro i hi
    rw [getLsbD_vramAddress]
    interval_cases i <;> simp [nametable, coarseX]

theorem incrementY_eq_stepY (v : BitVec 15) : incrementY v = stepY v := by
  unfold incrementY stepY
  rw [incrementCoarseY_fields]
  change (if fineY v ≠ 7 then _ else _) = _
  split
  · rename_i hy
    apply BitVec.eq_of_toNat_eq
    rw [ne_eq, ← BitVec.toNat_inj, fineY_toNat] at hy
    have hv := v.isLt
    simp only [vramAddress_toNat, BitVec.toNat_add, fineY_toNat, nametable_toNat, coarseY_toNat, coarseX_toNat,
      BitVec.reduceToNat] at hy ⊢
    omega
  · rfl

/-- Settles O48: the masks bit by bit, the additions by the numbers of the fields. -/
theorem scrollArithmeticByFields : Obligations.ScrollArithmeticByFields :=
  fun v t => ⟨incrementX_eq_stepX v, incrementY_eq_stepY v, horizontalCopy_eq_copyX v t, verticalCopy_eq_copyY v t⟩

end Sys2Proof.Stated
end

section
/-! PROOFS. One PPU clock (spec/49_ppu_rendering.md R210 to R213, R230, R231): with rendering disabled, and its pixel. -/

namespace Sys2Proof.Stated

open Sys2Proof.Machine

/-- What the pixel of a dot hands out. -/
def dotPixel (s : State) : List IoEvent :=
  if 0 ≤ s.ppu.scanline ∧ s.ppu.scanline ≤ 239 ∧ 1 ≤ s.ppu.dot ∧ s.ppu.dot ≤ 256 then
    [.pixel (s.ppu.dot - 1) s.ppu.scanline (pixelIndex s.ppu s.ppu.dot), .greyscale (s.ppu.mask.getLsbD 0)]
  else []

theorem pixelDot_form (s : State) : pixelDot s = { s with io := s.io ++ dotPixel s } := by
  unfold pixelDot dotPixel
  split
  · simp [emitPixel, State.emit]
  · simp

theorem ppuClock_of_reset {s : State} (h : s.ppu.resetDone = true) : ppuClock s = .ok () (ppuDot s) := by
  rw [ppuClock, if_neg (by simp [h])]

/-- The advance reads and moves the position alone (R211). -/
theorem advance_of_position {p q : Ppu} (hline : p.scanline = q.scanline) (hdot : p.dot = q.dot) :
    advance p = { p with scanline := (advance q).scanline, dot := (advance q).dot } := by
  unfold advance
  rw [hline, hdot]
  split <;> simp [← hline]

/-- What the background part of a dot leaves: the MASK, the position, the bytes of the PPU bus and the IRQ input. -/
theorem renderDot_keeps (s : State) : (renderDot s).ppu.mask = s.ppu.mask ∧ (renderDot s).ppu.scanline = s.ppu.scanline ∧
    (renderDot s).ppu.dot = s.ppu.dot ∧ (renderDot s).ppuBus = s.ppuBus ∧ (renderDot s).irqLine = s.irqLine := by
  obtain ⟨_, _, _, _, _, _, _, _, _, _, heq⟩ := renderDot_form s
  rw [heq]
  exact ⟨rfl, rfl, rfl, rfl, rfl⟩

/-- A dot in one form: the background part, the pixel of the core it left, the status bits, edge memory and pending NMI of
the status events, and the position moved on (R210). -/
theorem ppuDot_form (s : State) : ∃ vb hit ovf prev n pending, ppuDot s = { renderDot s with
    ppu := { (renderDot s).ppu with
      vblank := vb, sprite0Hit := hit, spriteOverflow := ovf, nmiOutputPrev := prev
      scanline := (advance s.ppu).scanline, dot := (advance s.ppu).dot }
    draws := n
    nmiPending := pending
    io := (renderDot s).io ++ dotPixel (renderDot s) } := by
  obtain ⟨-, hline, hdot, -, -⟩ := renderDot_keeps s
  unfold ppuDot
  rw [pixelDot_form]
  obtain ⟨vb, hit, ovf, prev, n, pending, heq⟩ := statusEvents_form (renderDot s).ppu.scanline (renderDot s).ppu.dot
    { renderDot s with io := (renderDot s).io ++ dotPixel (renderDot s) }
  refine ⟨vb, hit, ovf, prev, n, pending, (congrArg (State.mapPpu advance) heq).trans ?_⟩
  rw [State.mapPpu, advance_of_position (q := s.ppu)]
  · exact hline
  · exact hdot

/-! ## Rendering disabled -/

section

variable {s : State} (h3 : s.ppu.mask.getLsbD 3 = false) (h4 : s.ppu.mask.getLsbD 4 = false)
include h3

theorem pixelIndex_of_masked (d : Nat) : pixelIndex s.ppu d = 0 := by
  simp only [pixelIndex, pixelMasked, h3, Bool.not_false, Bool.true_or, Bool.or_true, if_true]

include h4

theorem renderingEnabled_eq_false : renderingEnabled s.ppu = false := by
  rw [renderingEnabled, h3, h4]
  rfl

/-- With rendering disabled neither sprite bit is drawn (R235). -/
theorem spriteDraws_disabled (d : Nat) : spriteDraws d s = s := by
  have hdot : ¬(1 ≤ d ∧ d ≤ 256 ∧ s.ppu.mask.getLsbD 3 = true ∧ s.ppu.mask.getLsbD 4 = true) := by
    simp only [h3, Bool.false_eq_true, false_and, and_false, not_false_iff]
  simp only [spriteDraws, if_neg hdot, renderingEnabled_eq_false h3 h4, Bool.false_eq_true, if_false]

theorem statusEvents_draws_disabled (line : Int) (d : Nat) : (statusEvents line d s).draws = s.draws := by
  unfold statusEvents
  split
  · rfl
  split
  · rfl
  split
  · rw [spriteDraws_disabled h3 h4]
  · rfl

theorem renderDot_disabled : renderDot s = s := by
  rw [renderDot, renderingEnabled_eq_false h3 h4]
  exact if_neg (by simp)

theorem ppuDot_draws_disabled : (ppuDot s).draws = s.draws := by
  have hppu : (pixelDot s).ppu = s.ppu := by rw [pixelDot_form]
  have hdraws : (pixelDot s).draws = s.draws := by rw [pixelDot_form]
  rw [ppuDot, renderDot_disabled h3 h4, State.mapPpu_draws,
    statusEvents_draws_disabled (by rw [hppu]; exact h3) (by rw [hppu]; exact h4), hdraws]

end

/-- Settles O51: the background part is left out, and what is left is the pixel, the status events and the advance. -/
theorem renderingDisabledDoesNothing : Obligations.RenderingDisabledDoesNothing := by
  intro s hreset h3 h4
  have hdraws := ppuDot_draws_disabled h3 h4
  obtain ⟨vb, hit, ovf, prev, n, pending, heq⟩ := ppuDot_form s
  rw [renderDot_disabled h3 h4] at heq
  refine ⟨_, ppuClock_of_reset hreset, ?_, ?_, hdraws, ?_, ?_⟩
  · rw [heq]
  · rw [heq]
  · rw [heq]
  · rw [heq, dotPixel, pixelIndex_of_masked h3]

/-! ## The pixel -/

theorem renderDot_of_not_rendering {s : State} (h : ¬Rendering s) : renderDot s = s := by
  refine if_neg fun ⟨hlow, hhigh, hr⟩ => h ⟨hlow, hhigh, ?_⟩
  rwa [renderingEnabled, Bool.or_eq_true] at hr

/-- Four bits as a number. -/
theorem ofBool_append4 (a b c d : Bool) : BitVec.ofBool a ++ BitVec.ofBool b ++ BitVec.ofBool c ++ BitVec.ofBool d =
    BitVec.ofNat 4 (8 * a.toNat + 4 * b.toNat + 2 * c.toNat + d.toNat) := by
  revert a b c d
  decide

/-- The index of a dot (R229 to R231): shown where the background is enabled, and in the first eight dots where its
left-edge bit is set too. -/
theorem pixelIndex_eq (p : Ppu) (d : Nat) : pixelIndex p d =
    if p.mask.getLsbD 3 = true ∧ (p.mask.getLsbD 1 = true ∨ 8 < d) then selectedIndex p else 0 := by
  have hleft : decide (d - 1 < 8) = !decide (8 < d) := by
    rw [← decide_not, decide_eq_decide]
    omega
  unfold pixelIndex pixelMasked renderingEnabled
  rw [hleft]
  cases p.mask.getLsbD 3 <;> cases p.mask.getLsbD 1 <;> by_cases h8 : 8 < d <;> simp [h8]

/-- Settles O52, by the form of a dot: the background part, then the pixel of the core it left, the status events and the
advance. -/
theorem pixelOfADot : Obligations.PixelOfADot := by
  intro s hreset
  obtain ⟨hmask, hline, hdot, hbus, hirq⟩ := renderDot_keeps s
  obtain ⟨vb, hit, ovf, prev, n, pending, heq⟩ := ppuDot_form s
  refine ⟨ppuDot s, ppuClock_of_reset hreset, ?_, ?_, renderDot_of_not_rendering, ?_, ppuDot_cpuSideKept s, ?_, ?_⟩
  · rw [heq]
    simp only [dotPixel, pixelIndex_eq, selectedIndex, ofBool_append4, hmask, hline, hdot]
  · rw [heq]
  · rw [heq]
  · rw [heq]
    exact hbus
  · rw [heq]
    exact hirq

end Sys2Proof.Stated
end

section
/-! PROOFS. The DATA port (spec/48_ppu_registers.md R201 to R203): its address and the step of `v` by number, a read below
palette space and in it, and a write. -/

namespace Sys2Proof.Stated

open Sys2Proof.Machine

/-! ## The address and the step of `v` -/

theorem dataPortAddress_toNat (p : Ppu) : (dataPortAddress p).toNat = p.v.toNat % 0x4000 :=
  BitVec.toNat_setWidth ..

theorem incrementDataPort_v (s : State) : (incrementDataPort s).ppu.v =
    BitVec.ofNat 15 (s.ppu.v.toNat + (if s.ppu.ctrl.getLsbD 2 then 32 else 1)) := by
  rw [BitVec.ofNat_add, BitVec.ofNat_toNat, BitVec.setWidth_eq, incrementDataPort]
  split <;> rfl

/-- Clearing bit 12 of a palette address takes 0x1000 off it (R201, D20). -/
theorem palette_and_2FFF {a : BitVec 14} (h : 0x3F00 ≤ a.toNat) : (a &&& 0x2FFF).toNat = a.toNat - 0x1000 := by
  have ha := a.isLt
  have hbit : a.toNat.testBit 13 = true := by
    rw [Nat.testBit_eq_decide_div_mod_eq, decide_eq_true_iff]
    omega
  have hlow : a.toNat % 2 ^ 12 < 2 ^ 13 := by omega
  rw [BitVec.toNat_and]
  change a.toNat &&& (2 ^ 13 ||| (2 ^ 12 - 1)) = _
  rw [Nat.and_or_distrib_left, Nat.and_two_pow_sub_one_eq_mod, Nat.and_two_pow, hbit, Bool.toNat_true, Nat.mul_comm,
    ← Nat.two_pow_add_eq_or_of_lt hlow]
  omega

/-! ## Bytes assumed of a bus -/

theorem ppuBusAnswer_plain {s : State} {a : BitVec 14} (h : s.ppuBus.kindAt a.toNat ≠ .free) :
    ppuBusAnswer a s = s.ppuBus.peek a.toNat :=
  congrArg Prod.fst (ppuBusRead_plain h)

/-- A store changes the byte at its address, where the bus is RAM, and no other (R63, R70). -/
theorem peek_store (b : Bus) (a k : Nat) (d : Byte) :
    (b.store a d).peek k = if k = a ∧ b.kindAt a = .ram then d else b.peek k := by
  by_cases hk : k = a
  · subst hk
    by_cases hram : b.kindAt k = .ram
    · rw [if_pos ⟨rfl, hram⟩, Bus.peek_store_same hram]
    · rw [if_neg (fun h => hram h.2), Bus.store_not_ram hram]
  · rw [if_neg (fun h => hk h.1), Bus.peek_store_other hk]

/-! ## Reads and writes -/

theorem portRead_data {s : State} (h : s.ppu.resetDone = true) : portRead 7 s = readData s := by
  simp [portRead, h]

theorem portWrite_data {s : State} (h : s.ppu.resetDone = true) (d : Byte) :
    portWrite 7 d s = .ok () (writeData d s) := by
  simp [portWrite, h]

section

variable {s : State} {d : Byte} (hd : d = ppuBusAnswer (dataPortAddress s.ppu) s)
include hd

/-- Below palette space a read answers the buffer and refills it from the address (R201). -/
theorem readData_below_palette (h : dataPortAddress s.ppu < 0x3F00) :
    readData s = .ok s.ppu.readBuffer { s.record (.ppuRead (dataPortAddress s.ppu) d) with
      ppu := { s.ppu with readBuffer := d, v := (incrementDataPort s).ppu.v } } := by
  subst hd
  rw [readData, if_pos h]
  rfl

/-- A palette read answers the byte at the address and keeps the buffer (R201, D20). -/
theorem readData_palette_keep (h : ¬dataPortAddress s.ppu < 0x3F00)
    (hkeep : s.params.paletteReadRefillsBuffer = false) :
    readData s = .ok d { s.record (.ppuRead (dataPortAddress s.ppu) d) with
      ppu := { s.ppu with v := (incrementDataPort s).ppu.v } } := by
  subst hd
  rw [readData, if_neg h, readDataPalette, if_neg (by simp [hkeep])]
  rfl

/-- Under the parameter a palette read refills the buffer from beneath the palette, by a second transfer (R201, D20). -/
theorem readData_palette_refill (h : ¬dataPortAddress s.ppu < 0x3F00)
    (hrefill : s.params.paletteReadRefillsBuffer = true) {e : Byte}
    (he : e = ppuBusAnswer (dataPortAddress s.ppu &&& 0x2FFF) (s.record (.ppuRead (dataPortAddress s.ppu) d))) :
    readData s = .ok d { s.recordAll [.ppuRead (dataPortAddress s.ppu) d,
        .ppuRead (dataPortAddress s.ppu &&& 0x2FFF) e] with
      ppu := { s.ppu with readBuffer := e, v := (incrementDataPort s).ppu.v } } := by
  subst hd he
  rw [readData, if_neg h, readDataPalette, if_pos hrefill]
  simp [State.record, State.recordAll, incrementDataPort, ppuBusRead]

end

/-- A DATA read makes transfers on the PPU bus alone (R201). -/
theorem readData_recorded {s t : State} {d : Byte} (h : readData s = .ok d t) :
    ∃ events, Recorded s t events ∧ ∀ e ∈ events, e.onPpuBus = true := by
  by_cases hbelow : dataPortAddress s.ppu < 0x3F00
  · rw [readData_below_palette rfl hbelow] at h
    cases h
    exact ⟨[_], ⟨rfl, rfl⟩, by simp [IoEvent.onPpuBus]⟩
  cases hrefill : s.params.paletteReadRefillsBuffer with
  | false =>
    rw [readData_palette_keep rfl hbelow hrefill] at h
    cases h
    exact ⟨[_], ⟨rfl, rfl⟩, by simp [IoEvent.onPpuBus]⟩
  | true =>
    rw [readData_palette_refill rfl hbelow hrefill rfl] at h
    cases h
    exact ⟨[_, _], ⟨rfl, rfl⟩, by simp [IoEvent.onPpuBus]⟩

/-- Settles O45, by the three cases of a read and the one of a write: under the premise every answer of the PPU bus is the
byte held there. -/
theorem dataPortReadsAndWrites : Obligations.DataPortReadsAndWrites := by
  intro d s hreset hkind
  have hplain (a : BitVec 14) (t : State) (ht : t.ppuBus = s.ppuBus) : s.ppuBus.peek a.toNat = ppuBusAnswer a t := by
    rw [ppuBusAnswer_plain] <;> rw [ht]
    exact hkind _ a.isLt
  simp only [← dataPortAddress_toNat, BitVec.ofNat_toNat, BitVec.setWidth_eq, ← incrementDataPort_v]
  rw [portRead_data hreset]
  refine ⟨readData_below_palette (hplain _ s rfl), fun ha => ?_, fun ha hrefill => ?_, _, portWrite_data hreset d, rfl,
    ⟨rfl, rfl⟩, rfl, rfl, rfl, rfl, ⟨rfl, rfl, rfl, rfl⟩, Bus.store_regions .., fun b => peek_store ..⟩
  · exact readData_palette_keep (hplain _ s rfl) (Nat.not_lt.2 ha)
  · have hbeneath : BitVec.ofNat 14 ((dataPortAddress s.ppu).toNat - 0x1000) = dataPortAddress s.ppu &&& 0x2FFF := by
      rw [← palette_and_2FFF ha, BitVec.ofNat_toNat, BitVec.setWidth_eq]
    rw [hbeneath, ← palette_and_2FFF ha]
    exact readData_palette_refill (hplain _ s rfl) (Nat.not_lt.2 ha) hrefill (hplain _ _ rfl)

end Sys2Proof.Stated
end

section
/-! PROOFS. The processor bus (spec/20_memory.md R62, R63, R68): the only stops of an access, what RAM reads back, and what a
read changes. -/

namespace Sys2Proof.Stated

open Sys2Proof.Machine

/-! ## Accesses of the window -/

theorem memRead_inside {a : Word} (h : inWindow a = true) (s : State) :
    memRead a s = (portRead (a.toNat % 8) s).bind fun d t => .ok d (t.record (.cpuRead a d)) := by
  rw [memRead, if_pos h, windowIndex_eq]

theorem memWrite_inside {a : Word} (h : inWindow a = true) (d : Byte) (s : State) :
    memWrite a d s = (portWrite (a.toNat % 8) d s).bind fun _ t => .ok () (t.record (.cpuWrite a d)) := by
  rw [memWrite, if_pos h, windowIndex_eq]

theorem portRead_of_not_reset {s : State} (h : s.ppu.resetDone = false) (i : Nat) :
    portRead i s = .fault (.notReset .ppu) :=
  if_pos h

theorem portWrite_of_not_reset {s : State} (h : s.ppu.resetDone = false) (i : Nat) (d : Byte) :
    portWrite i d s = .fault (.notReset .ppu) :=
  if_pos h

theorem portRead_status {s : State} (h : s.ppu.resetDone = true) : portRead 2 s = readStatus s := by
  simp [portRead, h]

theorem readStatus_refused {s : State} (h : s.params.spriteStatus = .refuse ∧ s.ppu.mask.getLsbD 4 = true) :
    readStatus s = .refused .unsupportedSpriteStatus := by
  rw [readStatus, if_pos h]

theorem readStatus_answers {s : State} (h : ¬(s.params.spriteStatus = .refuse ∧ s.ppu.mask.getLsbD 4 = true)) :
    ∃ d t, readStatus s = .ok d t := by
  rw [readStatus, if_neg h]
  exact ⟨_, _, rfl⟩

/-- Of a reset PPU every register answers a read, but a refused STATUS (R187, R235). -/
theorem portRead_answers {s : State} (h : s.ppu.resetDone = true) {i : Nat} (hi : i < 8)
    (hstatus : ¬(i = 2 ∧ s.params.spriteStatus = .refuse ∧ s.ppu.mask.getLsbD 4 = true)) :
    ∃ d t, portRead i s = .ok d t := by
  by_cases h2 : i = 2
  · subst h2
    rw [portRead_status h]
    exact readStatus_answers fun hr => hstatus ⟨rfl, hr⟩
  · unfold portRead
    rw [if_neg (by simp [h]), if_neg (by omega)]
    split
    · exact absurd rfl h2
    · exact ⟨_, _, rfl⟩
    · exact ⟨_, _, rfl⟩
    · exact ⟨_, _, rfl⟩

/-- Settles O13, by cases on the window: outside it every access answers, inside it the register port decides. -/
theorem processorBusStops : Obligations.ProcessorBusStops := by
  intro a s
  have hindex : a.toNat % 8 < 8 := Nat.mod_lt _ (by decide)
  refine ⟨fun hw hreset => ⟨?_, fun d => ?_⟩, fun hw hreset h2 hrefuse hmask => ?_, fun hreset => ?_⟩
  · rw [memRead_inside hw, portRead_of_not_reset hreset, Res.bind_fault]
  · rw [memWrite_inside hw, portWrite_of_not_reset hreset, Res.bind_fault]
  · rw [memRead_inside hw, h2, portRead_status hreset, readStatus_refused ⟨hrefuse, hmask⟩, Res.bind_refused]
  · cases hw : inWindow a with
    | false => exact ⟨fun _ => ⟨_, _, memRead_outside hw s⟩, fun d => ⟨_, memWrite_outside hw d s⟩⟩
    | true =>
      have hdone : s.ppu.resetDone = true := by simpa [hw] using hreset
      refine ⟨fun hstatus => ?_, memWrite_ready hdone a⟩
      obtain ⟨d, t, hp⟩ := portRead_answers hdone hindex fun hr => hstatus ⟨rfl, hr⟩
      exact ⟨d, _, by rw [memRead_inside hw, hp, Res.bind_ok]⟩

/-! ## What RAM reads back -/

/-- Settles O14, by a read of a plain address after a store. -/
theorem ramReadsBackWhatWasWritten : Obligations.RamReadsBackWhatWasWritten := by
  intro a b d s ha hb
  refine ⟨_, memWrite_outside ha d s, ?_, rfl, rfl, rfl⟩
  have hplain : Plain { s.record (.cpuWrite a d) with ext := s.ext.store a.toNat d } b := by
    obtain ⟨hw, hkind⟩ := hb
    exact ⟨hw, by rwa [Bus.kindAt_store]⟩
  have hread : (s.ext.store a.toNat d).peek b.toNat =
      if b = a ∧ s.ext.kindAt a.toNat = .ram then d else s.ext.peek b.toNat := by
    simp only [peek_store, BitVec.toNat_inj]
  rw [memRead_plain hplain, hread]

/-! ## What a read changes -/

/-- Only a reset PPU answers a read (R187). -/
theorem resetDone_of_portRead {i : Nat} {s t : State} {d : Byte} (h : portRead i s = .ok d t) :
    s.ppu.resetDone = true := by
  cases hreset : s.ppu.resetDone with
  | true => rfl
  | false =>
    rw [portRead_of_not_reset hreset] at h
    cases h

/-- A register read that answers makes transfers on the PPU bus alone (R207). -/
theorem portRead_recorded {i : Nat} {s t : State} {d : Byte} (h : portRead i s = .ok d t) :
    ∃ events, Recorded s t events ∧ ∀ e ∈ events, e.onPpuBus = true := by
  obtain ⟨hstatus, -, hother⟩ := portRead_keeps h
  by_cases h2 : i = 2
  · rw [hstatus h2]
    exact ⟨[], ⟨by simp, by simp⟩, nofun⟩
  by_cases h7 : i = 7
  · subst h7
    rw [portRead_data (resetDone_of_portRead h)] at h
    exact readData_recorded h
  · obtain ⟨n, ht⟩ := hother h2 h7
    rw [ht]
    exact ⟨[], ⟨by simp, by simp⟩, nofun⟩

/-- A read of the processor bus that answers joins the history, after the transfers on the PPU bus it made (R63, R68). -/
theorem memRead_recorded {a : Word} {s t : State} {d : Byte} (h : memRead a s = .ok d t) :
    ∃ events, Recorded s t (events ++ [.cpuRead a d]) ∧ ∀ e ∈ events, e.onPpuBus = true := by
  cases hw : inWindow a with
  | false =>
    rw [memRead_outside hw] at h
    cases h
    exact ⟨[], ⟨rfl, rfl⟩, nofun⟩
  | true =>
    rw [memRead_inside hw] at h
    obtain ⟨_, u, hp, hk⟩ := Res.bind_eq_ok h
    cases hk
    obtain ⟨events, hrec, hbus⟩ := portRead_recorded hp
    exact ⟨events, recorded_trans hrec ⟨rfl, rfl⟩, hbus⟩

/-- A read of the window leaves the picture core as the register read does (R62). -/
theorem memRead_inside_ppu {a : Word} {s t : State} {d : Byte} (h : memRead a s = .ok d t) (hw : inWindow a = true) :
    ∃ u, portRead (a.toNat % 8) s = .ok d u ∧ t.ppu = u.ppu := by
  rw [memRead_inside hw] at h
  obtain ⟨_, u, hp, hk⟩ := Res.bind_eq_ok h
  cases hk
  exact ⟨u, hp, rfl⟩

/-- Settles O15, by cases on the window and on the index of the register read. -/
theorem readsChangeOnlyTheirSideEffects : Obligations.ReadsChangeOnlyTheirSideEffects := by
  intro a s t d h
  refine ⟨memRead_frame h, memRead_recorded h, fun hplain => ?_, fun hindex => ?_, fun hw h2 => ?_, fun hw h7 => ?_⟩
  · rw [memRead_plain hplain] at h
    cases h
    exact ⟨rfl, rfl⟩
  · cases hw : inWindow a with
    | false =>
      rw [memRead_outside hw] at h
      cases h
      rfl
    | true =>
      obtain ⟨u, hp, ht⟩ := memRead_inside_ppu h hw
      obtain ⟨-, -, hother⟩ := portRead_keeps hp
      obtain ⟨n, hu⟩ := hother (fun h2 => hindex ⟨hw, .inl h2⟩) (fun h7 => hindex ⟨hw, .inr h7⟩)
      rw [ht, hu]
  · obtain ⟨u, hp, ht⟩ := memRead_inside_ppu h hw
    obtain ⟨hstatus, -, -⟩ := portRead_keeps hp
    rw [ht, hstatus h2]
  · obtain ⟨u, hp, ht⟩ := memRead_inside_ppu h hw
    obtain ⟨-, hdata, -⟩ := portRead_keeps hp
    obtain ⟨buffer, events, hu⟩ := hdata h7
    exact ⟨buffer, by rw [ht, hu]⟩

end Sys2Proof.Stated
end

section
/-! PROOFS. The background fetches (spec/49_ppu_rendering.md R220 to R223): their addresses as fields of bits, and by number. -/

namespace Sys2Proof.Stated

open Sys2Proof.Machine

/-! ## The fields of the addresses -/

theorem toNat_append_eq {m n : Nat} (x : BitVec m) (y : BitVec n) : (x ++ y).toNat = 2 ^ n * x.toNat + y.toNat := by
  rw [BitVec.toNat_append, ← Nat.shiftLeft_add_eq_or_of_lt y.isLt, Nat.shiftLeft_eq, Nat.mul_comm]

theorem nametableAddress_fields (v : BitVec 15) :
    nametableAddress v = 2#2 ++ nametable v ++ coarseY v ++ coarseX v := by
  apply BitVec.eq_of_getLsbD_eq
  intro i hi
  simp only [BitVec.getLsbD_append]
  interval_cases i <;> simp [nametableAddress, nametable, coarseY, coarseX]

/-- One palette byte serves four by four tiles: its address leaves out the low two bits of both coordinates (R221). -/
theorem attributeAddress_fields (v : BitVec 15) : attributeAddress v =
    2#2 ++ nametable v ++ 0xF#4 ++ (coarseY v).extractLsb' 2 3 ++ (coarseX v).extractLsb' 2 3 := by
  apply BitVec.eq_of_getLsbD_eq
  intro i hi
  simp only [BitVec.getLsbD_append]
  interval_cases i <;> simp [attributeAddress, nametable, coarseY, coarseX]

/-- The table CTRL bit 4 selects, the tile, the low plane (bit 3 is 0) and the row (R222). -/
theorem patternAddress_fields (p : Ppu) : patternAddress p =
    0#1 ++ BitVec.ofBool (p.ctrl.getLsbD 4) ++ p.bgNextNt ++ 0#1 ++ fineY p.v := by
  apply BitVec.eq_of_getLsbD_eq
  intro i hi
  simp only [BitVec.getLsbD_append]
  interval_cases i <;> simp [patternAddress, fineY]

/-! ## Their numbers -/

theorem nametableAddress_toNat (v : BitVec 15) : (nametableAddress v).toNat =
    0x2000 + 0x400 * (nametable v).toNat + 32 * (coarseY v).toNat + (coarseX v).toNat := by
  rw [nametableAddress_fields]
  simp only [toNat_append_eq, BitVec.reduceToNat]
  omega

theorem attributeAddress_toNat (v : BitVec 15) : (attributeAddress v).toNat =
    0x23C0 + 0x400 * (nametable v).toNat + 8 * ((coarseY v).toNat / 4) + (coarseX v).toNat / 4 := by
  rw [attributeAddress_fields]
  have hx := (coarseX v).isLt
  have hy := (coarseY v).isLt
  simp only [toNat_append_eq, BitVec.reduceToNat, BitVec.extractLsb'_toNat, Nat.shiftRight_eq_div_pow]
  omega

theorem patternAddress_toNat (p : Ppu) : (patternAddress p).toNat =
    (if p.ctrl.getLsbD 4 then 0x1000 else 0) + 16 * p.bgNextNt.toNat + (fineY p.v).toNat := by
  rw [patternAddress_fields]
  simp only [toNat_append_eq, BitVec.reduceToNat, BitVec.toNat_ofBool]
  cases p.ctrl.getLsbD 4 <;> simp <;> omega

/-- The high plane's byte lies 8 above the low plane's, with no carry out of the 14 bits (R223). -/
theorem patternAddress_add_8_toNat (p : Ppu) : (patternAddress p + 8).toNat = (patternAddress p).toNat + 8 := by
  have hnt := p.bgNextNt.isLt
  have hfy := (fineY p.v).isLt
  have := patternAddress_toNat p
  split at this <;> bv_omega

/-- The quadrant of a tile is bit 1 of each of its coordinates (R221). -/
theorem attributeShift_eq (v : BitVec 15) :
    attributeShift v = 4 * ((coarseY v).toNat / 2 % 2) + 2 * ((coarseX v).toNat / 2 % 2) := by
  have hfields : ((coarseY v &&& 2) <<< 1) ||| (coarseX v &&& 2) =
      0#2 ++ (coarseY v).extractLsb' 1 1 ++ (coarseX v).extractLsb' 1 1 ++ 0#1 := by
    apply BitVec.eq_of_getLsbD_eq
    intro i hi
    simp only [BitVec.getLsbD_append]
    interval_cases i <;> simp
  change (((coarseY v &&& 2) <<< 1) ||| (coarseX v &&& 2)).toNat = _
  rw [hfields]
  simp only [toNat_append_eq, BitVec.reduceToNat, BitVec.extractLsb'_toNat, Nat.shiftRight_eq_div_pow]
  omega

/-- Settles O49: each address and the quadrant's shift by the numbers of their fields; each fetch is one read by definition. -/
theorem backgroundFetches : Obligations.BackgroundFetches := by
  intro s
  have hx := (coarseX s.ppu.v).isLt
  have hy := (coarseY s.ppu.v).isLt
  have hn := (nametable s.ppu.v).isLt
  have hf := (fineY s.ppu.v).isLt
  have ht := s.ppu.bgNextNt.isLt
  refine ⟨nametableAddress_toNat _, attributeAddress_toNat _, patternAddress_toNat _, ?_, ?_, ?_, ?_,
    ⟨_, _, rfl, rfl⟩, ⟨_, _, rfl, ?_⟩, ⟨_, _, rfl, rfl⟩, _, _, rfl, rfl⟩
  · rw [patternAddress_add_8_toNat, patternAddress_toNat]
  · rw [nametableAddress_toNat]
    omega
  · rw [attributeAddress_toNat]
    omega
  · split <;> omega
  · rw [← attributeShift_eq, ← Nat.shiftRight_eq_div_pow, ← BitVec.toNat_ushiftRight, BitVec.ofNat_toNat]
    rfl

end Sys2Proof.Stated
end

section
/-! PROOFS. The decoder and the encoder (spec/30_encoding.md R85 to R97): each gives back what the other took, and the opcode
map. -/

namespace Sys2Proof.Stated

/-! ## Decoding by the entry of the opcode -/

/-- An undefined opcode is rejected by name, whatever follows it (R93). -/
theorem decode_of_undefined {op : Byte} (h : op ∈ undefinedOpcodes) (rest : List Byte) :
    decode (op :: rest) = .error (.undefinedOpcode op) := by
  rw [decode, (lookup_none_iff op).2 h]

/-- An entry that builds an instruction decodes its operand bytes to it, and leaves what follows them (R91). -/
theorem decode_of_builds {op : Byte} {e : Entry} {i : Instr} (hlook : lookup op = some e) (hbuild : e.Builds i)
    (rest : List Byte) : decode (op :: (i.operandBytes ++ rest)) = .ok (i, rest) := by
  cases e with
  | one j =>
    obtain ⟨hbytes, rfl⟩ := hbuild
    simp [decode, hlook, hbytes]
  | two f =>
    obtain ⟨b, hbytes, rfl⟩ := hbuild
    simp [decode, hlook, hbytes]
  | three f =>
    obtain ⟨lo, hi, hbytes, rfl⟩ := hbuild
    simp [decode, hlook, hbytes]

/-- Settles O2: the entry of an instruction's opcode builds it from its operand bytes. -/
theorem decodeOfEncodeIsIdentity : Obligations.DecodeOfEncodeIsIdentity := by
  intro i rest
  obtain ⟨e, hlook, hbuild⟩ := lookup_opcode i
  exact decode_of_builds hlook hbuild rest

/-- A decoded instruction has the first byte as its opcode, and as operand bytes those it was built from (R91). -/
theorem bytes_of_decode {op : Byte} {operands rest : List Byte} {i : Instr}
    (h : decode (op :: operands) = .ok (i, rest)) : i.opcode = op ∧ i.operandBytes ++ rest = operands := by
  rw [decode] at h
  cases hlook : lookup op with
  | none =>
    rw [hlook] at h
    cases h
  | some e =>
    have hencodes := lookup_encodes hlook
    rw [hlook] at h
    cases e with
    | one j =>
      cases h
      obtain ⟨hop, hbytes⟩ := hencodes
      exact ⟨hop, by rw [hbytes]; rfl⟩
    | two f =>
      rcases operands with - | ⟨b, operands⟩
      · cases h
      · cases h
        obtain ⟨hop, hbytes, -⟩ := hencodes b
        exact ⟨hop, by rw [hbytes]; rfl⟩
    | three f =>
      rcases operands with - | ⟨lo, - | ⟨hi, operands⟩⟩
      · cases h
      · cases h
      · cases h
        obtain ⟨hop, hbytes, -⟩ := hencodes lo hi
        exact ⟨hop, by rw [hbytes]; rfl⟩

/-- Settles O3: the opcode and the operand bytes of the decoded instruction are the bytes taken. -/
theorem decodeAcceptsOnlyEncodings : Obligations.DecodeAcceptsOnlyEncodings := by
  intro bytes rest i h
  cases bytes with
  | nil => cases h
  | cons op operands =>
    obtain ⟨rfl, rfl⟩ := bytes_of_decode h
    rfl

/-! ## The opcode map -/

/-- Every entry of the map is some instruction's (R89). -/
theorem exists_opcode_of_lookup {op : Byte} {e : Entry} (h : lookup op = some e) : ∃ i : Instr, i.opcode = op := by
  have hencodes := lookup_encodes h
  cases e with
  | one i => exact ⟨i, hencodes.1⟩
  | two f => exact ⟨f 0, (hencodes 0).1⟩
  | three f => exact ⟨f (word16 0 0), (hencodes 0 0).1⟩

theorem undefined_iff_no_instruction (op : Byte) : op ∈ undefinedOpcodes ↔ ∀ i : Instr, i.opcode ≠ op := by
  rw [← lookup_none_iff]
  constructor
  · rintro hnone i rfl
    obtain ⟨e, hlook, -⟩ := lookup_opcode i
    simp [hnone] at hlook
  · intro hno
    by_contra hsome
    obtain ⟨e, hlook⟩ := Option.ne_none_iff_exists'.1 hsome
    obtain ⟨i, hi⟩ := exists_opcode_of_lookup hlook
    exact hno i hi

/-- The instructions an entry builds have the row of the one it builds from a zero operand (R91). -/
theorem sameRow_of_builds {op : Byte} {e : Entry} (h : lookup op = some e) :
    ∃ k : Instr, ∀ i, e.Builds i → SameRow i k := by
  have hencodes := lookup_encodes h
  cases e with
  | one k => exact ⟨k, by rintro i ⟨-, rfl⟩; exact ⟨rfl, rfl, rfl⟩⟩
  | two f => exact ⟨f 0, by rintro i ⟨b, -, rfl⟩; exact (hencodes b).2.2⟩
  | three f => exact ⟨f 0, by rintro i ⟨lo, hi, -, rfl⟩; exact (hencodes lo hi).2.2⟩

theorem rowOf_eq_of_opcode {i j : Instr} (h : i.opcode = j.opcode) : rowOf i = rowOf j := by
  obtain ⟨e, hlook, hi⟩ := lookup_opcode i
  obtain ⟨e', hlook', hj⟩ := lookup_opcode j
  obtain rfl : e = e' := by simpa [← h, hlook] using hlook'
  obtain ⟨k, hrow⟩ := sameRow_of_builds hlook
  have hik := hrow i hi
  have hjk := hrow j hj
  simp only [rowOf, h, hik.mode, hik.baseCycles, hik.pageExtra, hjk.mode, hjk.baseCycles, hjk.pageExtra]

/-- The number of bytes of the instructions an entry builds (R86, R91). -/
def entryLength : Entry → Nat
  | .one _ => 1
  | .two _ => 2
  | .three _ => 3

theorem encode_length_of_builds {e : Entry} {i : Instr} (h : e.Builds i) : (encode i).length = entryLength e := by
  cases e with
  | one j =>
    obtain ⟨hbytes, -⟩ := h
    simp [encode, hbytes, entryLength]
  | two f =>
    obtain ⟨b, hbytes, -⟩ := h
    simp [encode, hbytes, entryLength]
  | three f =>
    obtain ⟨lo, hi, hbytes, -⟩ := h
    simp [encode, hbytes, entryLength]

/-- The lists of opcodes by length and the opcode map agree. -/
theorem opcodeLength_all :
    ∀ k < 256, opcodeLength (BitVec.ofNat 8 k) = (lookup (BitVec.ofNat 8 k)).map entryLength := by
  decide +kernel

theorem opcodeLength_eq_lookup (op : Byte) : opcodeLength op = (lookup op).map entryLength := by
  simpa only [BitVec.ofNat_toNat, BitVec.setWidth_eq] using opcodeLength_all op.toNat op.isLt

/-- The opcode alone gives the length of the encoding (R91). -/
theorem opcodeLength_opcode (i : Instr) : opcodeLength i.opcode = some (encode i).length := by
  obtain ⟨e, hlook, hbuild⟩ := lookup_opcode i
  rw [opcodeLength_eq_lookup, hlook, encode_length_of_builds hbuild]
  rfl

theorem encode_length_eq_modeLength (i : Instr) : (encode i).length = Laws.modeLength i.mode := by
  cases i <;> rfl

/-- Settles O4, by the entry of the opcode. -/
theorem opcodeMapIsComplete : Obligations.OpcodeMapIsComplete :=
  ⟨undefined_iff_no_instruction, fun _ rest h => decode_of_undefined h rest, by decide +kernel, rfl,
    fun _ _ => rowOf_eq_of_opcode, fun i => ⟨opcodeLength_opcode i, decide_eq_true (opcodeLength_opcode i),
      encode_length_eq_modeLength i⟩⟩

/-- Settles O1: each byte string is the encoding of its instruction (R97). -/
theorem specEncodingExamplesDecode : Obligations.SpecEncodingExamplesDecode :=
  ⟨decodeOfEncodeIsIdentity (.ldaImm 0x10) [], decodeOfEncodeIsIdentity (.staAbx 0x0200) [],
    decodeOfEncodeIsIdentity (.ldaIzy 0x20) [], decodeOfEncodeIsIdentity (.jmpInd 0x02FF) [],
    decodeOfEncodeIsIdentity (.bne 0xFB) [], decodeOfEncodeIsIdentity .aslAcc [], decodeOfEncodeIsIdentity (.jsr 0x8000) []⟩

end Sys2Proof.Stated
end

section
/-! PROOFS. How a CPU call ends (spec/60_exceptions.md R240, R241): on a ready bus every instruction and every entry
completes, and a fetch stops at an undefined opcode alone. -/

namespace Sys2Proof.Stated

open Sys2Proof.Machine

/-! ## Instructions on a ready bus -/

theorem readInstr_ready {s : State} (h : BusReady s) (src : Source) (n : Nat) (flagged : Bool) (act : Byte → Cpu → Cpu) :
    ∃ t, readInstr src n flagged act s = .next t := by
  obtain ⟨q, s1, hq, -⟩ := readOperand_ready h src
  rw [readInstr, hq]
  exact ⟨_, rfl⟩

theorem storeInstr_ready {s : State} (h : BusReady s) (m : MemOperand) (n : Nat) (value : Cpu → Byte) :
    ∃ t, storeInstr m n value s = .next t := by
  obtain ⟨ea, s1, hea, hframe⟩ := effective_ok m s
  obtain ⟨u, hu⟩ := memWrite_ready (h.of_readFrame hframe).1 ea.1 (value s1.cpu)
  rw [storeInstr, hea, Res.bind_ok, hu]
  exact ⟨_, rfl⟩

theorem modifyMemory_ready {s : State} (h : BusReady s) (m : MemOperand) (n : Nat) (act : Byte → Flags → Byte × Flags) :
    ∃ t, modifyMemory m n act s = .next t := by
  obtain ⟨ea, s1, d, s2, hea, -, hd, hframe⟩ := operandRead_ready h m
  have hdone : (s2.setP (act d s2.cpu.p).2).ppu.resetDone = true := (h.of_readFrame hframe).1
  obtain ⟨u, hu⟩ := memWrite_ready hdone ea.1 (act d s2.cpu.p).1
  rw [modifyMemory, hea, Res.bind_ok, hd, Res.bind_ok, hu]
  exact ⟨_, rfl⟩

theorem branchInstr_answers (n : Nat) (cond : Flags → Bool) (rr : Byte) (s : State) :
    ∃ t, branchInstr n cond rr s = .next t := by
  unfold branchInstr
  split <;> exact ⟨_, rfl⟩

/-- The pointer of the indirect jump is read on a ready bus (R125). -/
theorem indirectTarget_ready {s : State} (h : BusReady s) (a : Word) : ∃ w t, indirectTarget a s = .ok w t := by
  obtain ⟨lo, s1, hlo⟩ := memRead_ready h a
  obtain ⟨hi, s2, hhi⟩ := memRead_ready (h.of_readFrame (memRead_frame hlo)) (word16 (highByte a) (lowByte a + 1))
  exact ⟨word16 hi lo, s2, by rw [indirectTarget, hlo, Res.bind_ok, hhi, Res.bind_ok]⟩

/-- The instructions that stand for themselves complete: those of the stack and BRK on any bus, the indirect jump on a ready
one. -/
theorem exec_single_ready {i : Instr} (hview : i.view = .single) {s : State} (h : BusReady s) : ∃ t, exec i s = .next t := by
  cases i with
  | tax | tay | txa | tya | tsx | txs | inx | iny | dex | dey | clc | sec | cli | sei | cld | sed | clv | nop | jmpAbs =>
    exact ⟨_, rfl⟩
  | pha => exact ⟨_, by rw [exec, execPha, push_eq, complete_ok]⟩
  | php => exact ⟨_, by rw [exec, execPhp, push_eq, complete_ok]⟩
  | pla => exact ⟨_, by rw [exec, execPla, pull_eq, Res.bind_ok, complete_ok]⟩
  | plp => exact ⟨_, by rw [exec, execPlp, pull_eq, Res.bind_ok, complete_ok]⟩
  | jmpInd a =>
    obtain ⟨w, t, hw⟩ := indirectTarget_ready h a
    exact ⟨_, by rw [exec, execJmpInd, hw, Res.bind_ok, complete_ok]⟩
  | jsr a => exact ⟨_, by rw [exec, execJsr, push16_eq, Res.bind_ok, complete_ok]⟩
  | rts =>
    exact ⟨_, by rw [exec, execRts, pull16, pull_eq, Res.bind_ok, pull_eq, Res.bind_ok, Res.bind_ok, complete_ok]⟩
  | brk =>
    obtain ⟨lo, hi, t, ht, -⟩ := enter_entered s (s.cpu.pc + 1) true (vector := irqVector) (by decide) (by decide)
    exact ⟨t, ht⟩
  | rti =>
    exact ⟨_, by rw [exec, execRti, leave, pull_eq, Res.bind_ok, pull16, pull_eq, Res.bind_ok, pull_eq, Res.bind_ok,
      Res.bind_ok, complete_ok]⟩
  | _ => cases hview

/-- On a ready bus every instruction completes, by cases on its shape (R241). -/
theorem exec_ready (i : Instr) {s : State} (h : BusReady s) : ∃ t, exec i s = .next t := by
  cases hv : i.view with
  | read op src =>
    rw [exec_read hv]
    exact readInstr_ready h src _ _ _
  | store op m =>
    rw [exec_store hv]
    exact storeInstr_ready h m _ _
  | modify op target =>
    cases target with
    | accumulator => exact ⟨_, exec_modifyAccumulator hv s⟩
    | memory m =>
      rw [exec_modifyMemory hv]
      exact modifyMemory_ready h m _ _
  | branch op rr =>
    rw [exec_branch hv]
    exact branchInstr_answers _ _ rr s
  | single => exact exec_single_ready hv h

/-! ## Fetches -/

/-- An undefined opcode is refused with its address (R93). -/
theorem fetchInstr_undefined {s s1 : State} {op : Byte} (hread : memRead s.cpu.pc s = .ok op s1)
    (hop : op ∈ undefinedOpcodes) : fetchInstr s = .refused (.undefinedOpcode op s.cpu.pc) := by
  rw [fetchInstr, hread, Res.bind_ok, (lookup_none_iff op).2 hop]

theorem fetchByte_ready {s : State} (h : BusReady s) : ∃ b t, fetchByte s = .ok b t ∧ BusReady t := by
  obtain ⟨b, s1, hb⟩ := memRead_ready h s.cpu.pc
  have h1 : BusReady s1 := h.of_readFrame (memRead_frame hb)
  exact ⟨b, s1.setPc (s1.cpu.pc + 1), by rw [fetchByte, hb, Res.bind_ok], h1⟩

/-- On a ready bus an instruction of any other opcode is fetched, and the bus stays ready. -/
theorem fetchInstr_ready {s s1 : State} {op : Byte} (h : BusReady s) (hread : memRead s.cpu.pc s = .ok op s1)
    (hop : op ∉ undefinedOpcodes) : ∃ i t, fetchInstr s = .ok i t ∧ BusReady t := by
  have hs1 : BusReady s1 := h.of_readFrame (memRead_frame hread)
  have h1 : BusReady (s1.setPc (s1.cpu.pc + 1)) := hs1
  obtain ⟨e, hlook⟩ := Option.ne_none_iff_exists'.1 (mt (lookup_none_iff op).1 hop)
  rw [fetchInstr, hread, Res.bind_ok, hlook]
  cases e with
  | one i => exact ⟨i, _, rfl, h1⟩
  | two f =>
    obtain ⟨b, t, hb, ht⟩ := fetchByte_ready h1
    exact ⟨f b, t, by simp only [hb, Res.bind_ok], ht⟩
  | three f =>
    obtain ⟨lo, s2, hlo, h2⟩ := fetchByte_ready h1
    obtain ⟨hi, t, hhi, ht⟩ := fetchByte_ready h2
    exact ⟨f (word16 hi lo), t, by simp only [hlo, hhi, Res.bind_ok], ht⟩

/-! ## A CPU call -/

/-- An interrupt found at a boundary is taken, whatever the bus (R246, R248, R249). -/
theorem beginCall_interrupt_answers {s : State} (h : ¬NoInterrupt s) : ∃ t, beginCall s = .next t := by
  unfold beginCall
  split
  · obtain ⟨lo, hi, t, ht, -⟩ := enter_entered { s with nmiPending := false } s.cpu.pc false (vector := nmiVector)
      (by decide) (by decide)
    exact ⟨t, ht⟩
  · split
    · obtain ⟨lo, hi, t, ht, -⟩ := enter_entered s s.cpu.pc false (vector := irqVector) (by decide) (by decide)
      exact ⟨t, ht⟩
    · exact absurd ⟨by simpa using ‹¬s.nmiPending = true›, by simpa using ‹¬(s.irqLine && !s.cpu.p.i) = true›⟩ h

theorem cpuClock_of_boundary {s : State} (hreset : s.cpu.resetDone = true) (hzero : s.cpu.cycles = 0) :
    cpuClock s = tick (beginCall s) := by
  rw [cpuClock, if_neg (by simp [hreset]), if_pos hzero]

theorem tick_answers {o : Out} (h : ∃ t, o = .next t) : ∃ t, tick o = .next t := by
  obtain ⟨t, rfl⟩ := h
  exact ⟨_, rfl⟩

/-- Settles O12, by cases on the countdown, on an interrupt to take and on the opcode read. -/
theorem cpuClockOutcomes : Obligations.CpuClockOutcomes := by
  refine ⟨fun s hreset => if_pos hreset, fun s hreset h => ?_⟩
  by_cases hzero : s.cpu.cycles = 0
  case neg => exact .inr ⟨fun hc => absurd hc hzero, _, cpuClock_countdown hreset (Nat.pos_of_ne_zero hzero)⟩
  rw [cpuClock_of_boundary hreset hzero]
  by_cases hno : NoInterrupt s
  case neg => exact .inr ⟨fun _ hn => absurd hn hno, tick_answers (beginCall_interrupt_answers hno)⟩
  rw [beginCall_of_noInterrupt hno, runInstr]
  obtain ⟨op, s1, hread⟩ := memRead_ready h s.cpu.pc
  by_cases hop : op ∈ undefinedOpcodes
  · exact .inl ⟨hzero, hno, op, s1, hread, hop, by rw [fetchInstr_undefined hread hop]; rfl⟩
  · obtain ⟨i, s2, hfetch, h2⟩ := fetchInstr_ready h hread hop
    rw [hfetch]
    exact .inr ⟨fun _ _ => ⟨op, s1, hread, hop⟩, tick_answers (exec_ready i h2)⟩

end Sys2Proof.Stated
end

section
/-! PROOFS. The bounds of an instruction's cost, and the calls inside a countdown (spec/40_cpu_engine.md R103 to R105,
R108). -/

namespace Sys2Proof.Stated

open Sys2Proof.Machine

/-- Settles O7, by the countdown of a CPU call. -/
theorem countdownCallOnlyDecrements : Obligations.CountdownCallOnlyDecrements :=
  fun _ hreset hcycles => cpuClock_countdown hreset hcycles

theorem maxPenalty_pageExtra {i : Instr} (h : i.pageExtra = true) : maxPenalty i = 1 := if_pos h

theorem maxPenalty_le_two (i : Instr) : maxPenalty i ≤ 2 := by
  unfold maxPenalty
  split
  · decide
  · split <;> decide

theorem maxPenalty_of_fixed {i : Instr} (hpage : i.pageExtra = false) (hmode : i.mode ≠ .relative) :
    maxPenalty i = 0 := by
  rw [maxPenalty, if_neg (by simp [hpage]), if_neg hmode]

/-- Settles O9, by the cost an instruction loads and the penalty its row allows. -/
theorem instructionCostBounds : Obligations.InstructionCostBounds := by
  intro i s t h
  obtain ⟨hlo, hhi, -⟩ := exec_loads i s t h
  obtain ⟨hbase, hmax⟩ := baseCycles_range i
  refine ⟨hbase, hlo, hhi.trans hmax, fun hpage => ?_, fun _ => ?_, fun hpage hmode => ?_⟩
  · rwa [maxPenalty_pageExtra hpage] at hhi
  · exact hhi.trans (Nat.add_le_add_left (maxPenalty_le_two i) _)
  · rw [maxPenalty_of_fixed hpage hmode] at hhi
    exact Nat.le_antisymm hhi hlo

end Sys2Proof.Stated
end

section
/-! PROOFS. The fetch of an instruction from plain memory (spec/40_cpu_engine.md R101, R102, R115). -/

namespace Sys2Proof.Stated

open Sys2Proof.Machine

/-- The machine after the fetch of the `n` bytes from PC on: their reads recorded and PC past them (R115). -/
def fetchedBytes (s : State) (n : Nat) : State :=
  (s.recordAll (codeReads s n)).setPc (s.cpu.pc + BitVec.ofNat 16 n)

theorem codeReads_succ (s : State) (n : Nat) : codeReads s (n + 1) = codeReads s n ++
    [.cpuRead (s.cpu.pc + BitVec.ofNat 16 n) (s.ext.peek (s.cpu.pc + BitVec.ofNat 16 n).toNat)] := by
  rw [codeReads, List.range_succ, List.map_append]
  rfl

theorem fetchedBytes_zero (s : State) : fetchedBytes s 0 = s := by
  simp [fetchedBytes, codeReads, State.setPc]

/-- The fetch of one byte more of the code (R115). -/
theorem fetchByte_fetchedBytes {s : State} {n k : Nat} {b : Byte}
    (hplain : ∀ k < n, Plain s (s.cpu.pc + BitVec.ofNat 16 k)) (hb : (codeBytes s n)[k]? = some b) :
    fetchByte (fetchedBytes s k) = .ok b (fetchedBytes s (k + 1)) := by
  obtain ⟨hk, rfl⟩ : k < n ∧ s.ext.peek (s.cpu.pc + BitVec.ofNat 16 k).toNat = b := by
    simpa [codeBytes, List.getElem?_eq_some_iff] using hb
  have hnext : s.cpu.pc + BitVec.ofNat 16 k + 1 = s.cpu.pc + BitVec.ofNat 16 (k + 1) := by
    rw [BitVec.add_assoc, BitVec.ofNat_add]
    rfl
  have hread : Plain (fetchedBytes s k) (fetchedBytes s k).cpu.pc := hplain k hk
  rw [fetchByte, memRead_plain hread, Res.bind_ok, fetchedBytes, fetchedBytes, codeReads_succ,
    ← State.recordAll_recordAll, ← hnext]
  rfl

/-- The bytes at PC that decode to an instruction are fetched as that instruction, with one read each (R91, R101). -/
theorem fetchInstr_of_decode {s : State} {n : Nat} {i : Instr}
    (hplain : ∀ k < n, Plain s (s.cpu.pc + BitVec.ofNat 16 k)) (hdecode : decode (codeBytes s n) = .ok (i, [])) :
    fetchInstr s = .ok i (fetchedBytes s n) := by
  have hcode : codeBytes s n = i.opcode :: i.operandBytes := by
    simpa [encode] using decodeAcceptsOnlyEncodings _ _ _ hdecode
  have hlength : n = i.operandBytes.length + 1 := by simpa [codeBytes] using congrArg List.length hcode
  have hfetch {k : Nat} {b : Byte} (hb : (i.opcode :: i.operandBytes)[k]? = some b) :
      fetchByte (fetchedBytes s k) = .ok b (fetchedBytes s (k + 1)) :=
    fetchByte_fetchedBytes hplain (by rwa [hcode])
  have hop : fetchByte s = .ok i.opcode (fetchedBytes s 1) := by
    simpa only [fetchedBytes_zero] using hfetch (k := 0) rfl
  obtain ⟨op, s1, hread, hs1⟩ := Res.bind_eq_ok hop
  injection hs1 with hopcode hs1
  subst hopcode
  obtain ⟨e, hlook, hbuild⟩ := lookup_opcode i
  rw [fetchInstr, hread, Res.bind_ok, hlook, hs1, hlength]
  cases e with
  | one j =>
    obtain ⟨hbytes, rfl⟩ := hbuild
    rw [hbytes]
    rfl
  | two f =>
    obtain ⟨b, hbytes, rfl⟩ := hbuild
    rw [hbytes] at hfetch ⊢
    simp only [hfetch (k := 1) rfl, Res.bind_ok]
    rfl
  | three f =>
    obtain ⟨lo, hi, hbytes, rfl⟩ := hbuild
    rw [hbytes] at hfetch ⊢
    simp only [hfetch (k := 1) rfl, hfetch (k := 2) rfl, Res.bind_ok]
    rfl

/-- A begin call on decodable code with no interrupt to take runs the instruction after its fetch (R101, R102). -/
theorem cpuClock_of_decode {s : State} {n : Nat} {i : Instr} (hreset : s.cpu.resetDone = true)
    (hzero : s.cpu.cycles = 0) (hno : NoInterrupt s) (hplain : ∀ k < n, Plain s (s.cpu.pc + BitVec.ofNat 16 k))
    (hdecode : decode (codeBytes s n) = .ok (i, [])) : cpuClock s = tick (exec i (fetchedBytes s n)) := by
  rw [cpuClock_of_boundary hreset hzero, beginCall_of_noInterrupt hno, runInstr, fetchInstr_of_decode hplain hdecode]

/-- Settles O5, by the begin call at the state the step starts it with. -/
theorem stepRunsTheDecodedInstruction : Obligations.StepRunsTheDecodedInstruction := by
  intro s rest i n hnext hreset hzero hno hplain hdecode
  rw [step_of_nextCall hnext]
  exact cpuClock_of_decode (s := { s with calls := rest, io := [] }) hreset hzero hno hplain hdecode

end Sys2Proof.Stated
end

section
/-! PROOFS. ADC and SBC by the numbers their bytes stand for (spec/45_arithmetic_compare.md R154, R155). -/

namespace Sys2Proof.Stated

open Sys2Proof.Machine

theorem sum9_toNat (a m : Byte) (carry : Bool) : (sum9 a m carry).toNat = a.toNat + m.toNat + carry.toNat := by
  have ha := a.isLt
  have hm := m.isLt
  have hc := carry.toNat_le
  simp only [sum9, BitVec.toNat_add, BitVec.toNat_setWidth, BitVec.toNat_ofBool]
  omega

/-- The result of the sum, by numbers (R154). -/
theorem sumResult_toNat (a m : Byte) (carry : Bool) :
    (sumResult a m carry).toNat = (a.toNat + m.toNat + carry.toNat) % 256 := by
  rw [sumResult, BitVec.toNat_setWidth, sum9_toNat]

/-- The carry out, by numbers (R154). -/
theorem sumCarry_eq (a m : Byte) (carry : Bool) :
    sumCarry a m carry = decide (255 < a.toNat + m.toNat + carry.toNat) := by
  have ha := a.isLt
  have hm := m.isLt
  have hc := carry.toNat_le
  rw [sumCarry, ← BitVec.msb_eq_getLsbD_last, BitVec.msb_eq_decide, sum9_toNat, decide_eq_decide]
  omega

theorem and_0x80_eq_zero (x : Byte) : (x &&& 0x80 == 0) = !x.msb := by
  have hbit : x &&& 0x80 = if x.msb then 0x80 else 0 := BitVec.and_twoPow x 7
  rw [hbit]
  cases x.msb <;> rfl

/-- The overflow rule, by sign bits (R154). -/
theorem sumOverflow_eq (a m r : Byte) : sumOverflow a m r = decide (a.msb = m.msb ∧ r.msb ≠ a.msb) := by
  rw [sumOverflow, and_0x80_eq_zero, bne, and_0x80_eq_zero, BitVec.msb_xor, BitVec.msb_xor]
  cases a.msb <;> cases m.msb <;> cases r.msb <;> rfl

/-- V of a sum is whether the exact signed sum leaves -128..127 (R113, R154). -/
theorem sumOverflow_iff (a m : Byte) (carry : Bool) : sumOverflow a m (sumResult a m carry) = true ↔
    a.toInt + m.toInt + carry.toNat < -128 ∨ 127 < a.toInt + m.toInt + carry.toNat := by
  have ha := a.isLt
  have hm := m.isLt
  have hc := carry.toNat_le
  simp only [sumOverflow_eq, BitVec.msb_eq_decide, sumResult_toNat, BitVec.toInt_eq_toNat_cond, decide_eq_true_eq,
    decide_eq_decide, ne_eq]
  omega

/-- Without overflow the result is the exact signed sum (R113). -/
theorem sumResult_toInt {a m : Byte} {carry : Bool} (h : sumOverflow a m (sumResult a m carry) = false) :
    (sumResult a m carry).toInt = a.toInt + m.toInt + carry.toNat := by
  have hexact := mt (sumOverflow_iff a m carry).2 (by simp [h])
  have ha := a.isLt
  have hm := m.isLt
  simp only [BitVec.toInt_eq_toNat_cond, sumResult_toNat] at hexact ⊢
  omega

/-- The complemented operand of SBC, by numbers (R155). -/
theorem complement_toNat (m : Byte) : (m ^^^ 0xFF).toNat = 255 - m.toNat := by
  change (m ^^^ BitVec.allOnes 8).toNat = _
  rw [BitVec.xor_allOnes, BitVec.toNat_not]

theorem complement_toInt (m : Byte) : (m ^^^ 0xFF).toInt = -m.toInt - 1 := by
  have hm := m.isLt
  simp only [BitVec.toInt_eq_toNat_cond, complement_toNat]
  omega

/-- SBC's sum with the complement is the difference less the borrow (R155). -/
theorem sumResult_complement (a m : Byte) (carry : Bool) :
    sumResult a (m ^^^ 0xFF) carry = BitVec.ofInt 8 (a.toNat - m.toNat - (1 - carry.toNat)) := by
  have hm := m.isLt
  apply BitVec.eq_of_toNat_eq
  rw [sumResult_toNat, complement_toNat, BitVec.toNat_ofInt]
  omega

/-- C of SBC is whether no borrow was needed (R155). -/
theorem sumCarry_complement_iff (a m : Byte) (carry : Bool) :
    sumCarry a (m ^^^ 0xFF) carry = true ↔ m.toNat + (1 - carry.toNat : Int) ≤ a.toNat := by
  have hm := m.isLt
  rw [sumCarry_eq, complement_toNat, decide_eq_true_iff]
  omega

/-- Settles O27, by the 9-bit sum as a number; SBC is the sum with the complement. -/
theorem overflowAndBorrowMeaning : Obligations.OverflowAndBorrowMeaning := by
  intro m s
  refine ⟨⟨_, rfl, sumOverflow_iff .., sumResult_toInt⟩, _, rfl, sumResult_complement .., sumCarry_complement_iff .., ?_⟩
  refine (sumOverflow_iff s.cpu.a (m ^^^ 0xFF) s.cpu.p.c).trans ?_
  rw [complement_toInt]
  omega

end Sys2Proof.Stated
end

section
/-! PROOFS. The subroutine instructions (spec/46_control_transfer.md R174, R175). -/

namespace Sys2Proof.Stated

open Sys2Proof.Machine

/-- Bytes stored at other addresses than those before are stored together with them. -/
theorem writesBytes_trans {s t u : State} {l m : List (Word × Byte)} (h : WritesBytes s t l) (k : WritesBytes t u m)
    (hdisjoint : ∀ e ∈ l, ∀ f ∈ m, f.1.toNat ≠ e.1.toNat) : WritesBytes s u (l ++ m) where
  elsewhere a ha := (k.elsewhere a fun e he => ha e (List.mem_append_right l he)).trans
    (h.elsewhere a fun e he => ha e (List.mem_append_left m he))
  stored e he hram := by
    have hkind (b : Nat) : t.ext.kindAt b = s.ext.kindAt b := by rw [Bus.kindAt, Bus.kindAt, h.regions]
    obtain he | he := List.mem_append.1 he
    · rw [k.elsewhere _ (hdisjoint e he), h.stored e he hram]
    · exact k.stored e he (by rwa [hkind])
  notRam a ha := by
    have hkind : t.ext.kindAt a = s.ext.kindAt a := by rw [Bus.kindAt, Bus.kindAt, h.regions]
    rw [k.notRam a (by rwa [hkind]), h.notRam a ha]
  regions := k.regions.trans h.regions

theorem pushed_trans {s t u : State} {l m : List (Word × Byte)} (h : Pushed s t l) (k : Pushed t u m)
    (hdisjoint : ∀ e ∈ l, ∀ f ∈ m, f.1.toNat ≠ e.1.toNat) : Pushed s u (l ++ m) where
  bytes := writesBytes_trans h.bytes k.bytes hdisjoint
  recorded := by
    rw [List.map_append]
    exact recorded_trans h.recorded k.recorded
  host := sameHost_trans h.host k.host
  ppu := k.ppu.trans h.ppu
  ppuBus := k.ppuBus.trans h.ppuBus
  nmiPending := k.nmiPending.trans h.nmiPending
  draws := k.draws.trans h.draws

/-- The CPU's registers are no part of what pushes do outside the CPU. -/
theorem pushed_setCpu {s t : State} {writes : List (Word × Byte)} (h : Pushed s t writes) (c : Cpu) :
    Pushed s (t.setCpu c) writes where
  bytes := ⟨h.bytes.elsewhere, h.bytes.stored, h.bytes.notRam, h.bytes.regions⟩
  recorded := h.recorded
  host := ⟨h.host.irqLine, h.host.params, h.host.calls, h.host.loop⟩
  ppu := h.ppu
  ppuBus := h.ppuBus
  nmiPending := h.nmiPending
  draws := h.draws

/-- A push writes one byte at the stack byte and moves SP down by one (R106). -/
theorem push_pushes (d : Byte) (s : State) : ∃ t, push d s = .ok () t ∧ t.cpu = { s.cpu with sp := s.cpu.sp - 1 } ∧
    Pushed s t [(stackByte s.cpu.sp, d)] :=
  ⟨_, push_eq d s, rfl, writesBytes_store rfl, ⟨rfl, rfl⟩, ⟨rfl, rfl, rfl, rfl⟩, rfl, rfl, rfl, rfl⟩

/-- A push of a word writes its high byte and then, one byte below, its low byte (R107). -/
theorem push16_pushes (w : Word) (s : State) : ∃ t, push16 w s = .ok () t ∧
    t.cpu = { s.cpu with sp := s.cpu.sp - 2 } ∧
    Pushed s t [(stackByte s.cpu.sp, highByte w), (stackByte (s.cpu.sp - 1), lowByte w)] := by
  obtain ⟨t, ht, htcpu, hpushed⟩ := push_pushes (highByte w) s
  obtain ⟨u, hu, hucpu, hpushed'⟩ := push_pushes (lowByte w) t
  rw [htcpu] at hucpu hpushed'
  refine ⟨u, by rw [push16, ht, Res.bind_ok, hu], ?_, pushed_trans hpushed hpushed' ?_⟩
  · rw [hucpu, BitVec.sub_sub]
    rfl
  · simpa [stackByte] using page1_ne (sub_ne_self s.cpu.sp).1

/-- A pull of a word reads the two stack bytes above SP, the low byte first (R107). -/
theorem pull16_reads (s : State) : ∃ lo s1 hi s2, memRead (stackByte (s.cpu.sp + 1)) s = .ok lo s1 ∧
    memRead (stackByte (s.cpu.sp + 2)) s1 = .ok hi s2 ∧ ReadFrame s s2 ∧ s2.ppu = s.ppu ∧
    pull16 s = .ok (word16 hi lo) (s2.setSp (s.cpu.sp + 2)) := by
  have hsp : s.cpu.sp + 1 + 1 = s.cpu.sp + 2 := BitVec.add_assoc ..
  have hlo := memRead_outside (stackAddress_outside (s.cpu.sp + 1)) s
  have hhi := memRead_outside (stackAddress_outside (s.cpu.sp + 2))
    (s.record (.cpuRead (stackByte (s.cpu.sp + 1)) (extRead (stackByte (s.cpu.sp + 1)) s)))
  refine ⟨_, _, _, _, hlo, hhi, (memRead_frame hlo).trans (memRead_frame hhi), rfl, ?_⟩
  rw [pull16, pull_eq, Res.bind_ok, pull_eq, Res.bind_ok, State.record_cpu, State.setSp_cpu, hsp]
  rfl

/-- Settles O33, by the push and the pull of a word. -/
theorem subroutineInstructions : Obligations.SubroutineInstructions := by
  refine ⟨fun a s => ⟨rfl, ?_⟩, rfl, fun s => ?_⟩
  · obtain ⟨t, ht, hcpu, hpushed⟩ := push16_pushes (s.cpu.pc - 1) s
    refine ⟨(t.setPc a).setCycles 6, by rw [exec, execJsr, ht, Res.bind_ok, complete_ok], ?_, ?_⟩
    · rw [State.setCycles_cpu, State.setPc_cpu, hcpu]
    · exact pushed_setCpu hpushed _
  · obtain ⟨lo, s1, hi, s2, hlo, hhi, hframe, hppu, hpull⟩ := pull16_reads s
    refine ⟨lo, s1, hi, s2, hlo, hhi, hframe, hppu, ?_⟩
    rw [exec, execRts, hpull, Res.bind_ok, complete_ok, ← hframe.cpu]
    rfl

end Sys2Proof.Stated
end

section
/-! PROOFS. The transfers a CPU call makes on the processor bus (spec/20_memory.md R61, R74, spec/40_cpu_engine.md
R111). -/

namespace Sys2Proof.Stated

open Sys2Proof.Machine

/-! ## At most so many transfers -/

/-- A state whose list of events is `io` and what follows it, with at most `n` transfers of the processor bus. -/
def AddsAtMost (n : Nat) (io : List IoEvent) (t : State) : Prop :=
  ∃ events, t.io = io ++ events ∧ (events.filter IoEvent.onCpuBus).length ≤ n

/-- An operation that, begun with the events `io`, makes at most `n` transfers on the processor bus if it answers. -/
def MakesAtMost {α : Type} (n : Nat) (io : List IoEvent) (r : Res α) : Prop := ∀ a t, r = .ok a t → AddsAtMost n io t

/-- The same of an outcome. -/
def EndsAtMost (n : Nat) (io : List IoEvent) (o : Out) : Prop := ∀ t, o = .next t → AddsAtMost n io t

theorem adds_of_io {n : Nat} {io : List IoEvent} {t : State} (h : t.io = io) : AddsAtMost n io t :=
  ⟨[], by simp [h], Nat.zero_le _⟩

theorem AddsAtMost.trans {m n : Nat} {io : List IoEvent} {t u : State} (h : AddsAtMost m io t)
    (k : AddsAtMost n t.io u) : AddsAtMost (m + n) io u := by
  obtain ⟨l, hl, hm⟩ := h
  obtain ⟨l', hl', hn⟩ := k
  refine ⟨l ++ l', by rw [hl', hl, List.append_assoc], ?_⟩
  rw [List.filter_append, List.length_append]
  exact Nat.add_le_add hm hn

theorem AddsAtMost.mono {m n : Nat} {io : List IoEvent} {t : State} (h : AddsAtMost m io t) (hle : m ≤ n) :
    AddsAtMost n io t := by
  obtain ⟨events, hio, hm⟩ := h
  exact ⟨events, hio, hm.trans hle⟩

theorem EndsAtMost.mono {m n : Nat} {io : List IoEvent} {o : Out} (h : EndsAtMost m io o) (hle : m ≤ n) :
    EndsAtMost n io o :=
  fun t ht => (h t ht).mono hle

theorem makes_ok {α : Type} {n : Nat} {io : List IoEvent} {a : α} {t : State} (h : t.io = io) :
    MakesAtMost n io (.ok a t) := by
  rintro _ _ ⟨⟩
  exact adds_of_io h

theorem MakesAtMost.bind {α β : Type} {m n : Nat} {io : List IoEvent} {r : Res α} {k : α → State → Res β}
    (hr : MakesAtMost m io r) (hk : ∀ a t, MakesAtMost n t.io (k a t)) : MakesAtMost (m + n) io (r.bind k) := by
  intro b u h
  obtain ⟨a, t, ht, h⟩ := Res.bind_eq_ok h
  exact (hr a t ht).trans (hk a t b u h)

/-- Going on without the bus. -/
theorem MakesAtMost.bind_quiet {α β : Type} {n : Nat} {io : List IoEvent} {r : Res α} {k : α → State → Res β}
    (hr : MakesAtMost n io r) (hk : ∀ a t, MakesAtMost 0 t.io (k a t)) : MakesAtMost n io (r.bind k) :=
  hr.bind hk

theorem MakesAtMost.finish {n : Nat} {io : List IoEvent} {r : Res Unit} (h : MakesAtMost n io r) :
    EndsAtMost n io r.finish :=
  fun t ht => h () t (finish_eq_next ht)

theorem MakesAtMost.complete {n cost : Nat} {io : List IoEvent} {r : Res Unit} (h : MakesAtMost n io r) :
    EndsAtMost n io (complete r cost) :=
  MakesAtMost.finish (h.bind_quiet fun _ _ => makes_ok rfl)

/-! ## One access -/

theorem filter_onCpuBus_of_onPpuBus {events : List IoEvent} (h : ∀ e ∈ events, e.onPpuBus = true) :
    events.filter IoEvent.onCpuBus = [] := by
  refine List.filter_eq_nil_iff.2 fun e he => ?_
  have hbus := h e he
  cases e with
  | cpuRead a d => cases hbus
  | cpuWrite a d => cases hbus
  | _ => exact Bool.false_ne_true

/-- One transfer of the processor bus after transfers of the PPU bus alone. -/
theorem adds_one {s t : State} {events : List IoEvent} {e : IoEvent} (h : Recorded s t (events ++ [e]))
    (hbus : ∀ e ∈ events, e.onPpuBus = true) : AddsAtMost 1 s.io t := by
  obtain ⟨hio, -⟩ := h
  refine ⟨events ++ [e], hio, ?_⟩
  rw [List.filter_append, filter_onCpuBus_of_onPpuBus hbus]
  exact List.length_filter_le ..

theorem memRead_makes (a : Word) (s : State) : MakesAtMost 1 s.io (memRead a s) := by
  intro d t h
  obtain ⟨events, hrec, hbus⟩ := memRead_recorded h
  exact adds_one hrec hbus

/-- A register write that answers makes transfers on the PPU bus alone (R207). -/
theorem portWrite_recorded_onPpuBus {i : Nat} {d : Byte} {s t : State} (h : portWrite i d s = .ok () t) :
    ∃ events, Recorded s t events ∧ ∀ e ∈ events, e.onPpuBus = true := by
  by_cases hi : i = 7
  · subst hi
    cases hreset : s.ppu.resetDone with
    | false =>
      rw [portWrite_of_not_reset hreset] at h
      cases h
    | true =>
      rw [portWrite_data hreset] at h
      cases h
      exact ⟨[.ppuWrite _ d], ⟨rfl, rfl⟩, by simp [IoEvent.onPpuBus]⟩
  · obtain ⟨-, -, hkeep, -, -⟩ := portWrite_keeps h
    obtain ⟨-, hio, hhist⟩ := hkeep hi
    exact ⟨[], ⟨by simp [hio], by simp [hhist]⟩, nofun⟩

theorem memWrite_makes (a : Word) (d : Byte) (s : State) : MakesAtMost 1 s.io (memWrite a d s) := by
  intro _ t h
  obtain ⟨-, heffect⟩ := memWrite_effect h
  cases hw : inWindow a with
  | false =>
    obtain ⟨-, -, -, -, hrec⟩ := heffect.outside hw
    exact adds_one (events := []) hrec nofun
  | true =>
    obtain ⟨u, hport, -, -, -, -, hrec⟩ := heffect.inside hw
    obtain ⟨events, hport, hbus⟩ := portWrite_recorded_onPpuBus hport
    exact adds_one (recorded_trans hport hrec) hbus

/-! ## The stack, the vectors and the operands -/

theorem push_makes (d : Byte) (s : State) : MakesAtMost 1 s.io (push d s) :=
  (memWrite_makes _ d s).bind_quiet fun _ _ => makes_ok rfl

theorem pull_makes (s : State) : MakesAtMost 1 s.io (pull s) := memRead_makes _ (s.setSp (s.cpu.sp + 1))

theorem push16_makes (w : Word) (s : State) : MakesAtMost 2 s.io (push16 w s) :=
  (push_makes _ s).bind fun _ t => push_makes _ t

theorem pull16_makes (s : State) : MakesAtMost 2 s.io (pull16 s) :=
  (pull_makes s).bind fun _ t => (pull_makes t).bind_quiet fun _ _ => makes_ok rfl

theorem memRead16_makes (a : Word) (s : State) : MakesAtMost 2 s.io (memRead16 a s) :=
  (memRead_makes a s).bind fun _ t => (memRead_makes _ t).bind_quiet fun _ _ => makes_ok rfl

/-- An entry pushes three bytes and reads the two of its vector (R247). -/
theorem enter_makes (ret : Word) (b : Bool) (vector : Word) (s : State) : MakesAtMost 5 s.io (enter ret b vector s) :=
  (push16_makes ret s).bind (n := 3) fun _ t => (push_makes _ (t.setP _)).bind (n := 2) fun _ u =>
    (memRead16_makes vector (u.setP _)).bind_quiet fun _ _ => makes_ok rfl

theorem nmiEntry_makes (s : State) : MakesAtMost 5 s.io (nmiEntry s) :=
  enter_makes s.cpu.pc false nmiVector { s with nmiPending := false }

theorem irqEntry_makes (s : State) : MakesAtMost 5 s.io (irqEntry s) := enter_makes s.cpu.pc false irqVector s

theorem leave_makes (s : State) : MakesAtMost 3 s.io (leave s) :=
  (pull_makes s).bind (n := 2) fun _ t => (pull16_makes (t.setP _)).bind_quiet fun _ _ => makes_ok rfl

theorem indirectTarget_makes (a : Word) (s : State) : MakesAtMost 2 s.io (indirectTarget a s) :=
  (memRead_makes a s).bind fun _ t => (memRead_makes _ t).bind_quiet fun _ _ => makes_ok rfl

theorem readPointer_makes (p : Byte) (s : State) : MakesAtMost 2 s.io (readPointer p s) :=
  (memRead_makes _ s).bind fun _ t => (memRead_makes _ t).bind_quiet fun _ _ => makes_ok rfl

/-- The reads that find an effective address: those of a pointer (R126, R127). -/
def pointerReads : MemOperand → Nat
  | .indexedIndirect _ => 2
  | .indirectIndexed _ => 2
  | _ => 0

theorem effective_makes (m : MemOperand) (s : State) : MakesAtMost (pointerReads m) s.io (effective m s) := by
  cases m with
  | indexedIndirect zz => exact (readPointer_makes _ s).bind_quiet fun _ _ => makes_ok rfl
  | indirectIndexed zz => exact (readPointer_makes _ s).bind_quiet fun _ _ => makes_ok rfl
  | _ => exact makes_ok rfl

/-- A mode with a pointer has one operand byte, and the others read no pointer (R86). -/
theorem memBytes_length_add_pointerReads (m : MemOperand) : (memBytes m).length + pointerReads m ≤ 3 := by
  cases m <;> exact Nat.le_of_ble_eq_true rfl

/-! ## The instructions: with the reads of their code, six transfers at most -/

theorem operandBytes_of_read {i : Instr} {op : ReadOp} {src : Source} (h : i.view = .read op src) :
    i.operandBytes = sourceBytes src := by
  cases i <;> cases h <;> rfl

theorem operandBytes_of_store {i : Instr} {op : StoreOp} {m : MemOperand} (h : i.view = .store op m) :
    i.operandBytes = memBytes m := by
  cases i <;> cases h <;> rfl

theorem operandBytes_of_modifyMemory {i : Instr} {op : ModifyOp} {m : MemOperand} (h : i.view = .modify op (.memory m)) :
    i.operandBytes = memBytes m := by
  cases i <;> cases h <;> rfl

theorem readInstr_ends (src : Source) (n : Nat) (flagged : Bool) (act : Byte → Cpu → Cpu) (s : State) :
    EndsAtMost (5 - (sourceBytes src).length) s.io (readInstr src n flagged act s) := by
  cases src with
  | immediate b => exact (makes_ok rfl).finish
  | memory m =>
    have hroom := memBytes_length_add_pointerReads m
    have hread : MakesAtMost (pointerReads m + 1) s.io (readOperand (.memory m) s) :=
      (effective_makes m s).bind (n := 1) fun _ t => (memRead_makes _ t).bind_quiet fun _ _ => makes_ok rfl
    have hends : EndsAtMost (pointerReads m + 1) s.io (readInstr (.memory m) n flagged act s) :=
      MakesAtMost.finish (hread.bind_quiet fun _ _ => makes_ok rfl)
    exact hends.mono (by rw [sourceBytes]; omega)

theorem storeInstr_ends (m : MemOperand) (n : Nat) (value : Cpu → Byte) (s : State) :
    EndsAtMost (5 - (memBytes m).length) s.io (storeInstr m n value s) := by
  have hroom := memBytes_length_add_pointerReads m
  have hends : EndsAtMost (pointerReads m + 1) s.io (storeInstr m n value s) :=
    MakesAtMost.complete ((effective_makes m s).bind fun _ t => memWrite_makes _ _ t)
  exact hends.mono (by omega)

theorem modifyMemory_ends (m : MemOperand) (n : Nat) (act : Byte → Flags → Byte × Flags) (s : State) :
    EndsAtMost (5 - (memBytes m).length) s.io (modifyMemory m n act s) := by
  have hroom := memBytes_length_add_pointerReads m
  have hends : EndsAtMost (pointerReads m + 2) s.io (modifyMemory m n act s) :=
    MakesAtMost.complete ((effective_makes m s).bind (n := 2) fun _ t =>
      (memRead_makes _ t).bind (n := 1) fun _ u => memWrite_makes _ _ (u.setP _))
  exact hends.mono (by omega)

theorem branchInstr_ends (n m : Nat) (cond : Flags → Bool) (rr : Byte) (s : State) :
    EndsAtMost m s.io (branchInstr n cond rr s) := by
  intro t h
  unfold branchInstr at h
  split at h <;> (cases h; exact adds_of_io rfl)

/-- The instructions that stand for themselves: none, or the transfers of the stack, a vector or a pointer. -/
theorem exec_single_ends {i : Instr} (h : i.view = .single) (s : State) :
    EndsAtMost (5 - i.operandBytes.length) s.io (exec i s) := by
  cases i with
  | tax | tay | txa | tya | tsx | txs | inx | iny | dex | dey | clc | sec | cli | sei | cld | sed | clv | nop | jmpAbs =>
    intro t ht
    cases ht
    exact adds_of_io rfl
  | pha | php => exact EndsAtMost.mono (push_makes _ s).complete (by decide)
  | pla | plp =>
    exact EndsAtMost.mono (MakesAtMost.complete ((pull_makes s).bind_quiet fun _ _ => makes_ok rfl)) (by decide)
  | jmpInd a =>
    exact EndsAtMost.mono (MakesAtMost.complete ((indirectTarget_makes a s).bind_quiet fun _ _ => makes_ok rfl))
      (Nat.le_succ 2)
  | jsr a =>
    exact EndsAtMost.mono (MakesAtMost.complete ((push16_makes _ s).bind_quiet fun _ _ => makes_ok rfl)) (Nat.le_succ 2)
  | rts => exact EndsAtMost.mono (MakesAtMost.complete ((pull16_makes s).bind_quiet fun _ _ => makes_ok rfl)) (by decide)
  | brk => exact (enter_makes (s.cpu.pc + 1) true irqVector s).complete
  | rti => exact EndsAtMost.mono (leave_makes s).complete (by decide)
  | _ => cases h

/-- An instruction whose code took the opcode and its operand bytes makes five transfers less its operand bytes at most
(R74, R111). -/
theorem exec_ends (i : Instr) (s : State) : EndsAtMost (5 - i.operandBytes.length) s.io (exec i s) := by
  cases hv : i.view with
  | read op src =>
    rw [exec_read hv, operandBytes_of_read hv]
    exact readInstr_ends src _ _ _ s
  | store op m =>
    rw [exec_store hv, operandBytes_of_store hv]
    exact storeInstr_ends m _ _ s
  | modify op target =>
    cases target with
    | accumulator =>
      rw [exec_modifyAccumulator hv]
      intro t ht
      cases ht
      exact adds_of_io rfl
    | memory m =>
      rw [exec_modifyMemory hv, operandBytes_of_modifyMemory hv]
      exact modifyMemory_ends m _ _ s
  | branch op rr =>
    rw [exec_branch hv]
    exact branchInstr_ends _ _ _ rr s
  | single => exact exec_single_ends hv s

/-! ## A CPU call -/

theorem fetchByte_makes (s : State) : MakesAtMost 1 s.io (fetchByte s) :=
  (memRead_makes _ s).bind_quiet fun _ _ => makes_ok rfl

theorem operandBytes_length_le (i : Instr) : i.operandBytes.length ≤ 2 := by
  cases i <;> exact Nat.le_of_ble_eq_true rfl

/-- A fetch reads each byte of the instruction once (R74, R101). -/
theorem fetchInstr_adds {s t : State} {i : Instr} (h : fetchInstr s = .ok i t) :
    AddsAtMost (1 + i.operandBytes.length) s.io t := by
  obtain ⟨op, s1, hop, h⟩ := Res.bind_eq_ok h
  refine (memRead_makes _ s op s1 hop).trans ?_
  cases hlook : lookup op with
  | none =>
    rw [hlook] at h
    cases h
  | some e =>
    have hencodes := lookup_encodes hlook
    rw [hlook] at h
    cases e with
    | one j =>
      cases h
      exact adds_of_io rfl
    | two f =>
      obtain ⟨b, s2, hb, h⟩ := Res.bind_eq_ok h
      cases h
      obtain ⟨-, hbytes, -⟩ := hencodes b
      rw [hbytes]
      exact fetchByte_makes (s1.setPc (s1.cpu.pc + 1)) b t hb
    | three f =>
      obtain ⟨lo, s2, hlo, h⟩ := Res.bind_eq_ok h
      obtain ⟨hi, s3, hhi, h⟩ := Res.bind_eq_ok h
      cases h
      obtain ⟨-, hbytes, -⟩ := hencodes lo hi
      rw [hbytes]
      exact (fetchByte_makes (s1.setPc (s1.cpu.pc + 1)) lo s2 hlo).trans (fetchByte_makes s2 hi t hhi)

theorem runInstr_ends (s : State) : EndsAtMost 6 s.io (runInstr s) := by
  intro t h
  obtain ⟨i, s1, hfetch, hexec⟩ := runInstr_eq_next h
  have hle := operandBytes_length_le i
  exact ((fetchInstr_adds hfetch).trans (exec_ends i s1 t hexec)).mono (by omega)

theorem beginCall_ends (s : State) : EndsAtMost 6 s.io (beginCall s) := by
  unfold beginCall
  split
  · exact (nmiEntry_makes s).complete.mono (by decide)
  · split
    · exact (irqEntry_makes s).complete.mono (by decide)
    · exact runInstr_ends s

/-- Settles O10: a call inside the countdown makes no transfer, and a begin call those of an entry, or of a fetch and the
instruction fetched. -/
theorem cpuCallMakesAtMostSixTransfers : Obligations.CpuCallMakesAtMostSixTransfers := by
  intro s t h
  obtain ⟨-, ⟨-, rfl⟩ | ⟨-, u, hu, rfl⟩⟩ := cpuClock_eq_next h
  · exact adds_of_io rfl
  · exact beginCall_ends s u hu

end Sys2Proof.Stated
end

section
/-! PROOFS. The addressing modes and the jumps (spec/41_addressing_modes.md R118 to R127, spec/46_control_transfer.md
R173). -/

namespace Sys2Proof.Stated

open Sys2Proof.Machine

/-! ## Addresses as numbers -/

theorem highByte_toNat (w : Word) : (highByte w).toNat = w.toNat / 256 := by
  have hw := w.isLt
  rw [highByte, BitVec.extractLsb'_toNat, Nat.shiftRight_eq_div_pow]
  omega

theorem lowByte_toNat (w : Word) : (lowByte w).toNat = w.toNat % 256 := by
  rw [lowByte, BitVec.extractLsb'_toNat, Nat.shiftRight_zero]

/-- Two addresses differ in bits 15..8 when they lie in different pages (R13, R123). -/
theorem crossesPage_eq (a b : Word) : crossesPage a b = decide (a.toNat / 256 ≠ b.toNat / 256) := by
  have hpage : highByte a = highByte b ↔ a.toNat / 256 = b.toNat / 256 := by
    rw [← BitVec.toNat_inj, highByte_toNat, highByte_toNat]
  rw [crossesPage, bne, beq_eq_decide, ← decide_not]
  exact decide_eq_decide.2 (not_congr hpage)

/-- An indexed address and its page crossing by numbers (R123, R124). -/
theorem indexedAddress_eq (base : Word) (index : Byte) :
    indexedAddress base index = (BitVec.ofNat 16 (base.toNat + index.toNat),
      decide ((base.toNat + index.toNat) % 65536 / 256 ≠ base.toNat / 256)) := by
  have hsum : base + index.setWidth 16 = BitVec.ofNat 16 (base.toNat + index.toNat) := by
    rw [BitVec.ofNat_add, BitVec.ofNat_toNat, BitVec.ofNat_toNat, BitVec.setWidth_eq]
  rw [indexedAddress, hsum, crossesPage_eq, BitVec.toNat_ofNat]

theorem zeroPageAddress_eq (zz : Byte) : zeroPageAddress zz = BitVec.ofNat 16 zz.toNat := (BitVec.ofNat_toNat ..).symm

theorem zeroPageAddress_toNat (zz : Byte) : (zeroPageAddress zz).toNat = zz.toNat :=
  BitVec.toNat_setWidth_of_le (by decide)

/-- A zero-page sum wraps in page 0 (R120, R121). -/
theorem zeroPageAddress_add (zz index : Byte) :
    zeroPageAddress (zz + index) = BitVec.ofNat 16 ((zz.toNat + index.toNat) % 256) := by
  rw [zeroPageAddress_eq, BitVec.toNat_add]

/-! ## The modes -/

/-- Settles O16, by the addresses as numbers. -/
theorem directModes : Obligations.DirectModes := by
  intro s zz a
  refine ⟨?_, ?_, ?_, rfl, ?_, ?_, rfl, fun m ea crossed s1 s2 d hea hd => ?_⟩
  · rw [effective, zeroPageAddress_eq]
  · rw [effective, zeroPageAddress_add]
  · rw [effective, zeroPageAddress_add]
  · rw [effective, indexedAddress_eq]
  · rw [effective, indexedAddress_eq]
  · rw [readOperand, hea, Res.bind_ok, hd, Res.bind_ok]

/-- A pointer in a page 0 of plain memory: its bytes are the two held there, the second one wrapping, and nothing of the PPU
is touched (R126, R127). -/
theorem readPointer_plain {s : State} (hplain : ∀ p : Byte, s.ext.kindAt p.toNat ≠ .free) (p : Byte) :
    ∃ s1, ReadFrame s s1 ∧ s1.ppu = s.ppu ∧
      readPointer p s = .ok (word16 (s.ext.peek ((p.toNat + 1) % 256)) (s.ext.peek p.toNat)) s1 := by
  have hread (q : Byte) {t : State} (hext : t.ext = s.ext) : memRead (zeroPageAddress q) t =
      .ok (s.ext.peek q.toNat) (t.record (.cpuRead (zeroPageAddress q) (s.ext.peek q.toNat))) := by
    have h : Plain t (zeroPageAddress q) :=
      ⟨zeroPageAddress_outside q, by rw [hext, zeroPageAddress_toNat]; exact hplain q⟩
    rw [memRead_plain h, hext, zeroPageAddress_toNat]
  have hlo := hread p (t := s) rfl
  have hhi := hread (p + 1) (t := s.record (.cpuRead (zeroPageAddress p) (s.ext.peek p.toNat))) rfl
  refine ⟨_, (memRead_frame hlo).trans (memRead_frame hhi), rfl, ?_⟩
  rw [readPointer, hlo, Res.bind_ok, hhi, Res.bind_ok, BitVec.toNat_add]
  rfl

/-- Settles O17, by the pointer in page 0: the index X is added before it is read and Y after. -/
theorem pointerModes : Obligations.PointerModes := by
  intro s zz hplain
  constructor
  · obtain ⟨s1, hframe, hppu, hpointer⟩ := readPointer_plain hplain (zz + s.cpu.x)
    refine ⟨s1, hframe, hppu, ?_⟩
    rw [effective, hpointer, Res.bind_ok, BitVec.toNat_add, Nat.mod_add_mod]
  · obtain ⟨s1, hframe, hppu, hpointer⟩ := readPointer_plain hplain zz
    refine ⟨s1, hframe, hppu, ?_⟩
    rw [effective, hpointer, Res.bind_ok, hframe.cpu, indexedAddress_eq]

/-! ## The jumps -/

/-- The address after a pointer, wrapping inside the pointer's own page (R125, D17). -/
theorem word16_highByte_lowByte_succ (a : Word) :
    word16 (highByte a) (lowByte a + 1) = BitVec.ofNat 16 (a.toNat / 256 * 256 + (a.toNat + 1) % 256) := by
  have ha := a.isLt
  apply BitVec.eq_of_toNat_eq
  rw [word16_toNat, highByte_toNat, BitVec.toNat_add, lowByte_toNat, BitVec.toNat_ofNat,
    show BitVec.toNat (1 : Byte) = 1 from rfl]
  omega

/-- Settles O32: a ready bus answers both reads of the pointer. -/
theorem jumpInstructions : Obligations.JumpInstructions := by
  refine ⟨fun a s => ⟨rfl, rfl⟩, fun a s => ⟨rfl, fun hready => ?_⟩⟩
  obtain ⟨lo, s1, hlo⟩ := memRead_ready hready a
  obtain ⟨hi, s2, hhi⟩ := memRead_ready (hready.of_readFrame (memRead_frame hlo)) (word16 (highByte a) (lowByte a + 1))
  have hframe := (memRead_frame hlo).trans (memRead_frame hhi)
  refine ⟨lo, s1, hi, s2, hlo, by rw [← word16_highByte_lowByte_succ, hhi], hframe, ?_⟩
  rw [exec, execJmpInd, indirectTarget, hlo, Res.bind_ok, hhi, Res.bind_ok, Res.bind_ok, complete_ok, ← hframe.cpu]
  rfl

end Sys2Proof.Stated
end

section
/-! PROOFS. The rows of an operation's forms, and the loads, stores and transfers
(spec/42_load_store_transfer.md R130 to R141). -/

namespace Sys2Proof.Stated

open Sys2Proof.Machine

/-! ## The forms of an operation -/

/-- The forms of a read operation, each with operand 0 (R89). -/
def readForms : ReadOp → List Instr
  | .lda => [.ldaImm 0, .ldaZp0 0, .ldaZpx 0, .ldaAbs 0, .ldaAbx 0, .ldaAby 0, .ldaIzx 0, .ldaIzy 0]
  | .ldx => [.ldxImm 0, .ldxZp0 0, .ldxZpy 0, .ldxAbs 0, .ldxAby 0]
  | .ldy => [.ldyImm 0, .ldyZp0 0, .ldyZpx 0, .ldyAbs 0, .ldyAbx 0]
  | .and => [.andImm 0, .andZp0 0, .andZpx 0, .andAbs 0, .andAbx 0, .andAby 0, .andIzx 0, .andIzy 0]
  | .ora => [.oraImm 0, .oraZp0 0, .oraZpx 0, .oraAbs 0, .oraAbx 0, .oraAby 0, .oraIzx 0, .oraIzy 0]
  | .eor => [.eorImm 0, .eorZp0 0, .eorZpx 0, .eorAbs 0, .eorAbx 0, .eorAby 0, .eorIzx 0, .eorIzy 0]
  | .bit => [.bitZp0 0, .bitAbs 0]
  | .adc => [.adcImm 0, .adcZp0 0, .adcZpx 0, .adcAbs 0, .adcAbx 0, .adcAby 0, .adcIzx 0, .adcIzy 0]
  | .sbc => [.sbcImm 0, .sbcZp0 0, .sbcZpx 0, .sbcAbs 0, .sbcAbx 0, .sbcAby 0, .sbcIzx 0, .sbcIzy 0]
  | .cmp => [.cmpImm 0, .cmpZp0 0, .cmpZpx 0, .cmpAbs 0, .cmpAbx 0, .cmpAby 0, .cmpIzx 0, .cmpIzy 0]
  | .cpx => [.cpxImm 0, .cpxZp0 0, .cpxAbs 0]
  | .cpy => [.cpyImm 0, .cpyZp0 0, .cpyAbs 0]

/-- The forms of a store operation, each with operand 0 (R89). -/
def storeForms : StoreOp → List Instr
  | .sta => [.staZp0 0, .staZpx 0, .staAbs 0, .staAbx 0, .staAby 0, .staIzx 0, .staIzy 0]
  | .stx => [.stxZp0 0, .stxZpy 0, .stxAbs 0]
  | .sty => [.styZp0 0, .styZpx 0, .styAbs 0]

/-- The read operation of an instruction, if it is one. -/
def readOpOf : View → Option ReadOp
  | .read op _ => some op
  | _ => none

/-- The store operation of an instruction, if it is one. -/
def storeOpOf : View → Option StoreOp
  | .store op _ => some op
  | _ => none

theorem readOpOf_eq_some {v : View} {op : ReadOp} (h : readOpOf v = some op) : ∃ src, v = .read op src := by
  cases v with
  | read op' src =>
    cases h
    exact ⟨src, rfl⟩
  | _ => cases h

theorem storeOpOf_eq_some {v : View} {op : StoreOp} (h : storeOpOf v = some op) : ∃ m, v = .store op m := by
  cases v with
  | store op' m =>
    cases h
    exact ⟨m, rfl⟩
  | _ => cases h

/-- The rows of a kind are those of its forms. -/
theorem hasRows_of_forms {kind : Instr → Prop} {forms : List Instr} (hforms : ∀ i ∈ forms, kind i)
    (hrows : ∀ i, kind i → rowOf i ∈ forms.map rowOf) : HasRows kind (forms.map rowOf) := by
  refine ⟨hrows, fun r hr => ?_⟩
  obtain ⟨i, hi, hrow⟩ := List.mem_map.1 hr
  exact ⟨i, hforms i hi, hrow⟩

theorem rowOf_mem_of_read {i : Instr} {op : ReadOp} {src : Source} (h : i.view = .read op src) :
    rowOf i ∈ (readForms op).map rowOf := by
  cases i <;> cases h <;> exact List.elem_iff.1 rfl

theorem rowOf_mem_of_store {i : Instr} {op : StoreOp} {m : MemOperand} (h : i.view = .store op m) :
    rowOf i ∈ (storeForms op).map rowOf := by
  cases i <;> cases h <;> exact List.elem_iff.1 rfl

theorem read_hasRows (op : ReadOp) :
    HasRows (fun i => ∃ src, i.view = .read op src) ((readForms op).map rowOf) := by
  have hforms : ∀ i ∈ readForms op, readOpOf i.view = some op := by cases op <;> decide
  exact hasRows_of_forms (fun i hi => readOpOf_eq_some (hforms i hi)) fun i ⟨src, h⟩ => rowOf_mem_of_read h

theorem store_hasRows (op : StoreOp) :
    HasRows (fun i => ∃ m, i.view = .store op m) ((storeForms op).map rowOf) := by
  have hforms : ∀ i ∈ storeForms op, storeOpOf i.view = some op := by cases op <;> decide
  exact hasRows_of_forms (fun i hi => storeOpOf_eq_some (hforms i hi)) fun i ⟨m, h⟩ => rowOf_mem_of_store h

theorem mode_of_read {i : Instr} {op : ReadOp} {src : Source} (h : i.view = .read op src) : i.mode = sourceMode src := by
  cases i <;> cases h <;> rfl

theorem mode_of_store {i : Instr} {op : StoreOp} {m : MemOperand} (h : i.view = .store op m) : i.mode = memMode m := by
  cases i <;> cases h <;> rfl

/-! ## What the shapes do -/

/-- On a ready bus a read instruction reads its operand, acts on the CPU and does nothing else (R104, R109). -/
theorem readInstr_next {s : State} (h : BusReady s) (src : Source) (n : Nat) (flagged : Bool) (act : Byte → Cpu → Cpu) :
    ∃ m crossed s1, readOperand src s = .ok (m, crossed) s1 ∧ ReadFrame s s1 ∧
      readInstr src n flagged act s = .next { s1 with cpu := { act m s.cpu with
        cycles := n + (if flagged = true ∧ crossed = true then 1 else 0) } } := by
  obtain ⟨⟨m, crossed⟩, s1, hm, hframe⟩ := readOperand_ready h src
  refine ⟨m, crossed, s1, hm, hframe, ?_⟩
  rw [readInstr, hm, Res.bind_ok, Res.finish_ok, hframe.cpu, pagePenalty]
  simp only [Bool.and_eq_true]
  rfl

/-- The CPU's registers are no part of what a store does outside the CPU. -/
theorem storeEffect_setCpu {ea : Word} {d : Byte} {s t : State} (h : StoreEffect ea d s t) (c : Cpu) :
    StoreEffect ea d s (t.setCpu c) where
  host := ⟨h.host.irqLine, h.host.params, h.host.calls, h.host.loop⟩
  bytes := ⟨h.bytes.elsewhere, h.bytes.stored, h.bytes.notRam, h.bytes.regions⟩
  outside := h.outside
  inside := h.inside

/-- With the PPU reset a store instruction finds its address by reads alone and writes its byte there (R109, R133). -/
theorem storeInstr_next {s : State} (h : s.ppu.resetDone = true) (m : MemOperand) (n : Nat) (value : Cpu → Byte) :
    ∃ ea crossed s1 t, effective m s = .ok (ea, crossed) s1 ∧ ReadFrame s s1 ∧ storeInstr m n value s = .next t ∧
      t.cpu = { s.cpu with cycles := n } ∧ StoreEffect ea (value s.cpu) s1 t := by
  obtain ⟨⟨ea, crossed⟩, s1, hea, hframe⟩ := effective_ok m s
  have hdone : s1.ppu.resetDone = true := by rw [hframe.ppu, h]
  obtain ⟨u, hu⟩ := memWrite_ready hdone ea (value s.cpu)
  obtain ⟨hcpu, heffect⟩ := memWrite_effect hu
  refine ⟨ea, crossed, s1, u.setCycles n, hea, hframe, ?_, ?_, storeEffect_setCpu heffect _⟩
  · rw [storeInstr, hea, Res.bind_ok, hframe.cpu, hu, complete_ok]
  · rw [State.setCycles_cpu, hcpu, hframe.cpu]

/-- Every read operation reads as its table rows and its act say. -/
theorem reads_of_act {op : ReadOp} {act : Byte → Cpu → Cpu} (hact : readAct op = act) :
    Reads op ((readForms op).map rowOf) act := by
  refine ⟨read_hasRows op, fun i src hv => ⟨mode_of_read hv, operandBytes_of_read hv, fun s hready => ?_⟩⟩
  rw [exec_read hv, hact]
  exact readInstr_next hready src _ _ act

theorem stores (op : StoreOp) : Stores op ((storeForms op).map rowOf) (storeValue op) := by
  refine ⟨store_hasRows op, fun i m hv => ⟨mode_of_store hv, operandBytes_of_store hv, fun s hreset => ?_⟩⟩
  rw [exec_store hv]
  exact storeInstr_next hreset m _ _

/-! ## Loads, stores and transfers -/

theorem loadA_eq (r : Byte) (c : Cpu) : loadA r c = { c with a := r, p := withNZ r c.p } := by
  rw [loadA, setNZ_eq_withNZ]

theorem loadX_eq (r : Byte) (c : Cpu) : loadX r c = { c with x := r, p := withNZ r c.p } := by
  rw [loadX, setNZ_eq_withNZ]

theorem loadY_eq (r : Byte) (c : Cpu) : loadY r c = { c with y := r, p := withNZ r c.p } := by
  rw [loadY, setNZ_eq_withNZ]

/-- Settles O18, by what a read instruction does on a ready bus and the loads of the three registers. -/
theorem loadInstructions : Obligations.LoadInstructions :=
  ⟨reads_of_act (funext₂ loadA_eq), reads_of_act (funext₂ loadX_eq), reads_of_act (funext₂ loadY_eq)⟩

/-- Settles O19, by what a store instruction does once the PPU was reset. -/
theorem storeInstructions : Obligations.StoreInstructions := ⟨stores .sta, stores .stx, stores .sty⟩

/-- An implied instruction does what its act on the registers does, in two cycles. -/
theorem implied_of_registerInstr {i : Instr} {opcode : Byte} {f act : Cpu → Cpu}
    (hrow : rowOf i = (opcode, .implied, 2, false)) (hbytes : i.operandBytes = [])
    (hexec : ∀ s, exec i s = registerInstr 2 f s) (hact : ∀ c, f c = act c) : Implied i opcode act := by
  refine ⟨hrow, hbytes, fun s => ?_⟩
  rw [hexec, registerInstr, hact]
  rfl

/-- Settles O20, by the loads of the three registers; TXS sets no flag. -/
theorem transferInstructions : Obligations.TransferInstructions :=
  ⟨implied_of_registerInstr rfl rfl (fun _ => rfl) fun c => loadX_eq c.a c,
    implied_of_registerInstr rfl rfl (fun _ => rfl) fun c => loadY_eq c.a c,
    implied_of_registerInstr rfl rfl (fun _ => rfl) fun c => loadA_eq c.x c,
    implied_of_registerInstr rfl rfl (fun _ => rfl) fun c => loadA_eq c.y c,
    implied_of_registerInstr rfl rfl (fun _ => rfl) fun c => loadX_eq c.sp c,
    implied_of_registerInstr rfl rfl (fun _ => rfl) fun _ => rfl⟩

end Sys2Proof.Stated
end

section
/-! PROOFS. A push and the pull that matches it undo each other on RAM (spec/43_stack.md R144, R145,
spec/46_control_transfer.md R175 to R177). -/

namespace Sys2Proof.Stated

open Sys2Proof.Machine

/-! ## Stack bytes that hold a byte -/

/-- The stack byte at `sp` is plain memory that holds `d`. -/
def StackHolds (s : State) (sp d : Byte) : Prop :=
  s.ext.kindAt (stackByte sp).toNat ≠ .free ∧ s.ext.peek (stackByte sp).toNat = d

theorem stackHolds_congr {s t : State} (h : t.ext = s.ext) (sp d : Byte) : StackHolds t sp d ↔ StackHolds s sp d := by
  rw [StackHolds, StackHolds, h]

/-- A byte written on a stack byte that is RAM is held there (R63). -/
theorem stackHolds_of_writesBytes {s t : State} {writes : List (Word × Byte)} {sp d : Byte}
    (h : WritesBytes s t writes) (hram : s.ext.kindAt (stackByte sp).toNat = .ram) (hmem : (stackByte sp, d) ∈ writes) :
    StackHolds t sp d := by
  refine ⟨?_, h.stored _ hmem hram⟩
  rw [Bus.kindAt, h.regions, ← Bus.kindAt, hram]
  decide

/-- A pull answers the byte held above SP and moves SP there (R106). -/
theorem pull_of_stackHolds {s : State} {sp d : Byte} (hsp : s.cpu.sp = sp - 1) (h : StackHolds s sp d) :
    ∃ t, pull s = .ok d t ∧ t.cpu = { s.cpu with sp := sp } ∧ t.ext = s.ext := by
  have hnext : s.cpu.sp + 1 = sp := by rw [hsp, BitVec.sub_add_cancel]
  obtain ⟨hplain, rfl⟩ := h
  rw [← hnext] at hplain ⊢
  exact ⟨_, pull_plain hplain, rfl, rfl⟩

/-- A pull of a word answers the two bytes held above SP, the low byte first (R107). -/
theorem pull16_of_stackHolds {s : State} {sp hi lo : Byte} (hsp : s.cpu.sp = sp - 2) (hlo : StackHolds s (sp - 1) lo)
    (hhi : StackHolds s sp hi) :
    ∃ t, pull16 s = .ok (word16 hi lo) t ∧ t.cpu = { s.cpu with sp := sp } := by
  have hsp1 : s.cpu.sp = sp - 1 - 1 := by rw [hsp, BitVec.sub_sub]; rfl
  obtain ⟨t, ht, htcpu, htext⟩ := pull_of_stackHolds hsp1 hlo
  obtain ⟨u, hu, hucpu, -⟩ := pull_of_stackHolds (by rw [htcpu]) ((stackHolds_congr htext sp hi).2 hhi)
  exact ⟨u, by rw [pull16, ht, Res.bind_ok, hu, Res.bind_ok], by rw [hucpu, htcpu]⟩

/-! ## The pulling instructions -/

theorem pla_of_stackHolds {s : State} {sp d : Byte} (hsp : s.cpu.sp = sp - 1) (h : StackHolds s sp d) :
    ∃ t, exec .pla s = .next t ∧ t.cpu = { s.cpu with sp := sp, a := d, p := withNZ d s.cpu.p, cycles := 4 } := by
  obtain ⟨t, ht, hcpu, -⟩ := pull_of_stackHolds hsp h
  refine ⟨_, by rw [exec, execPla, ht, Res.bind_ok, complete_ok], ?_⟩
  rw [State.setCycles_cpu, State.setCpu_cpu, loadA_eq, hcpu]

theorem plp_of_stackHolds {s : State} {sp d : Byte} (hsp : s.cpu.sp = sp - 1) (h : StackHolds s sp d) :
    ∃ t, exec .plp s = .next t ∧ t.cpu = { s.cpu with sp := sp, p := .ofPulled d, cycles := 4 } := by
  obtain ⟨t, ht, hcpu, -⟩ := pull_of_stackHolds hsp h
  refine ⟨_, by rw [exec, execPlp, ht, Res.bind_ok, complete_ok], ?_⟩
  rw [State.setCycles_cpu, State.setP_cpu, hcpu]

theorem rts_of_stackHolds {s : State} {sp hi lo : Byte} (hsp : s.cpu.sp = sp - 2) (hlo : StackHolds s (sp - 1) lo)
    (hhi : StackHolds s sp hi) :
    ∃ t, exec .rts s = .next t ∧ t.cpu = { s.cpu with sp := sp, pc := word16 hi lo + 1, cycles := 6 } := by
  obtain ⟨t, ht, hcpu⟩ := pull16_of_stackHolds hsp hlo hhi
  refine ⟨_, by rw [exec, execRts, ht, Res.bind_ok, complete_ok], ?_⟩
  rw [State.setCycles_cpu, State.setPc_cpu, hcpu]

theorem rti_of_stackHolds {s : State} {sp hi lo d : Byte} (hsp : s.cpu.sp = sp - 3) (hd : StackHolds s (sp - 2) d)
    (hlo : StackHolds s (sp - 1) lo) (hhi : StackHolds s sp hi) : ∃ t, exec .rti s = .next t ∧
      t.cpu = { s.cpu with sp := sp, p := .ofPulled d, pc := word16 hi lo, cycles := 6 } := by
  have hsp1 : s.cpu.sp = sp - 2 - 1 := by rw [hsp, BitVec.sub_sub]; rfl
  obtain ⟨t, ht, htcpu, htext⟩ := pull_of_stackHolds hsp1 hd
  have hext : (t.setP (.ofPulled d)).ext = s.ext := htext
  obtain ⟨u, hu, hucpu⟩ := pull16_of_stackHolds (s := t.setP (.ofPulled d)) (by rw [State.setP_cpu, htcpu])
    ((stackHolds_congr hext _ _).2 hlo) ((stackHolds_congr hext _ _).2 hhi)
  refine ⟨_, by rw [exec, execRti, leave, ht, Res.bind_ok, hu, Res.bind_ok, complete_ok], ?_⟩
  rw [State.setCycles_cpu, State.setPc_cpu, hucpu, State.setP_cpu, htcpu]

/-! ## The round trips -/

/-- The byte PHP pushes is pulled back as P with B clear (R143, R145). -/
theorem ofPulled_toByte_or (p : Flags) : Flags.ofPulled (p.toByte ||| 0x30) = { p with b := false } := by
  rw [← ofPulled_toByte]
  simp [Flags.ofPulled]

theorem pha_pla {s : State} (hram : s.ext.kindAt (stackByte s.cpu.sp).toNat = .ram) :
    ∃ t u, exec .pha s = .next t ∧ exec .pla t = .next u ∧
      u.cpu = { s.cpu with p := withNZ s.cpu.a s.cpu.p, cycles := 4 } := by
  obtain ⟨t, ht, htcpu, hpushed⟩ := complete_push s.cpu.a 3 s
  have ha : StackHolds t s.cpu.sp s.cpu.a := stackHolds_of_writesBytes hpushed.bytes hram (by simp)
  obtain ⟨u, hu, hucpu⟩ := pla_of_stackHolds (by rw [htcpu]) ha
  exact ⟨t, u, ht, hu, by rw [hucpu, htcpu]⟩

theorem php_plp {s : State} (hram : s.ext.kindAt (stackByte s.cpu.sp).toNat = .ram) :
    ∃ t u, exec .php s = .next t ∧ exec .plp t = .next u ∧
      u.cpu = { s.cpu with p := { s.cpu.p with b := false }, cycles := 4 } := by
  obtain ⟨t, ht, htcpu, hpushed⟩ := complete_push (s.cpu.p.toByte ||| 0x30) 3 s
  have hp : StackHolds t s.cpu.sp (s.cpu.p.toByte ||| 0x30) := stackHolds_of_writesBytes hpushed.bytes hram (by simp)
  obtain ⟨u, hu, hucpu⟩ := plp_of_stackHolds (by rw [htcpu]) hp
  exact ⟨t, u, ht, hu, by rw [hucpu, htcpu, ofPulled_toByte_or]⟩

/-- JSR pushes the address of its last byte, to which RTS adds one (R174, R175). -/
theorem jsr_rts {s : State} (hram0 : s.ext.kindAt (stackByte s.cpu.sp).toNat = .ram)
    (hram1 : s.ext.kindAt (stackByte (s.cpu.sp - 1)).toNat = .ram) (a : Word) :
    ∃ t u, exec (.jsr a) s = .next t ∧ exec .rts t = .next u ∧ u.cpu = { s.cpu with cycles := 6 } := by
  obtain ⟨t, ht, htcpu, hpushed⟩ := push16_pushes (s.cpu.pc - 1) s
  have hhi : StackHolds t s.cpu.sp (highByte (s.cpu.pc - 1)) :=
    stackHolds_of_writesBytes hpushed.bytes hram0 (by simp)
  have hlo : StackHolds t (s.cpu.sp - 1) (lowByte (s.cpu.pc - 1)) :=
    stackHolds_of_writesBytes hpushed.bytes hram1 (by simp)
  have hsp : ((t.setPc a).setCycles 6).cpu.sp = s.cpu.sp - 2 := congrArg Cpu.sp htcpu
  obtain ⟨u, hu, hucpu⟩ := rts_of_stackHolds hsp hlo hhi
  refine ⟨_, u, by rw [exec, execJsr, ht, Res.bind_ok, complete_ok], hu, ?_⟩
  rw [hucpu, State.setCycles_cpu, State.setPc_cpu, htcpu, word16_bytes, BitVec.sub_add_cancel]

/-- BRK pushes the address past its padding byte and P as it was before I was set (R176, R177, R247). -/
theorem brk_rti {s : State} (hram0 : s.ext.kindAt (stackByte s.cpu.sp).toNat = .ram)
    (hram1 : s.ext.kindAt (stackByte (s.cpu.sp - 1)).toNat = .ram)
    (hram2 : s.ext.kindAt (stackByte (s.cpu.sp - 2)).toNat = .ram) :
    ∃ t u, exec .brk s = .next t ∧ exec .rti t = .next u ∧
      u.cpu = { s.cpu with p := { s.cpu.p with b := false }, pc := s.cpu.pc + 1, cycles := 6 } := by
  obtain ⟨-, hbrk⟩ := breakTakesTheEntry
  obtain ⟨lo, hi, t, ht, hentered⟩ := hbrk s
  have hbytes := hentered.bytes
  rw [← pushed_eq] at hbytes
  have hhi : StackHolds t s.cpu.sp (highByte (s.cpu.pc + 1)) :=
    stackHolds_of_writesBytes hbytes hram0 (by simp [stackByte])
  have hlo : StackHolds t (s.cpu.sp - 1) (lowByte (s.cpu.pc + 1)) :=
    stackHolds_of_writesBytes hbytes hram1 (by simp [stackByte])
  have hp : StackHolds t (s.cpu.sp - 2) (Flags.pushed { s.cpu.p with b := true } true) :=
    stackHolds_of_writesBytes hbytes hram2 (by simp [stackByte])
  obtain ⟨u, hu, hucpu⟩ := rti_of_stackHolds (by rw [hentered.cpu]) hp hlo hhi
  exact ⟨t, u, ht, hu, by rw [hucpu, hentered.cpu, word16_bytes, ofPulled_pushed]⟩

/-- Settles O23, pair by pair: what was pushed is held on the stack until the pull. -/
theorem stackRoundTrips : Obligations.StackRoundTrips := by
  intro s hram
  have hram0 : s.ext.kindAt (stackByte s.cpu.sp).toNat = .ram := by simpa using hram 0 (by decide)
  have hram1 := hram 1 (by decide)
  exact ⟨pha_pla hram0, php_plp hram0, jsr_rts hram0 hram1, brk_rti hram0 hram1 (hram 2 (by decide))⟩

end Sys2Proof.Stated
end

section
/-! PROOFS. The logic instructions: AND, ORA, EOR and BIT (spec/44_logical_shift.md R146 to R149). -/

namespace Sys2Proof.Stated

open Sys2Proof.Machine

theorem andA_eq (m : Byte) (c : Cpu) : andA m c = { c with a := c.a &&& m, p := withNZ (c.a &&& m) c.p } := by
  rw [andA, setNZ_eq_withNZ]

theorem orA_eq (m : Byte) (c : Cpu) : orA m c = { c with a := c.a ||| m, p := withNZ (c.a ||| m) c.p } := by
  rw [orA, setNZ_eq_withNZ]

theorem eorA_eq (m : Byte) (c : Cpu) : eorA m c = { c with a := c.a ^^^ m, p := withNZ (c.a ^^^ m) c.p } := by
  rw [eorA, setNZ_eq_withNZ]

/-- Settles O24, by what a read instruction does on a ready bus and the acts of the four operations; the act of BIT is the
stated one by definition. -/
theorem logicInstructions : Obligations.LogicInstructions :=
  ⟨reads_of_act (funext₂ andA_eq), reads_of_act (funext₂ orA_eq), reads_of_act (funext₂ eorA_eq), reads_of_act rfl⟩

end Sys2Proof.Stated
end

section
/-! PROOFS. The read-modify-write instructions: the rows of their memory forms, the one read and one write they make, and the
shifts and rotates by the numbers their bytes stand for (spec/44_logical_shift.md R150 to R153). -/

namespace Sys2Proof.Stated

open Sys2Proof.Machine

/-! ## The memory forms of an operation -/

/-- The memory forms of a read-modify-write operation, each with operand 0 (R89). -/
def modifyForms : ModifyOp → List Instr
  | .asl => [.aslZp0 0, .aslZpx 0, .aslAbs 0, .aslAbx 0]
  | .lsr => [.lsrZp0 0, .lsrZpx 0, .lsrAbs 0, .lsrAbx 0]
  | .rol => [.rolZp0 0, .rolZpx 0, .rolAbs 0, .rolAbx 0]
  | .ror => [.rorZp0 0, .rorZpx 0, .rorAbs 0, .rorAbx 0]
  | .inc => [.incZp0 0, .incZpx 0, .incAbs 0, .incAbx 0]
  | .dec => [.decZp0 0, .decZpx 0, .decAbs 0, .decAbx 0]

theorem view_of_mem_modifyForms (op : ModifyOp) : ∀ i ∈ modifyForms op, ∃ m, i.view = .modify op (.memory m) := by
  cases op <;> simp only [modifyForms, List.forall_mem_cons] <;>
    exact ⟨⟨_, rfl⟩, ⟨_, rfl⟩, ⟨_, rfl⟩, ⟨_, rfl⟩, List.forall_mem_nil _⟩

theorem rowOf_mem_of_modifyMemory {i : Instr} {op : ModifyOp} {m : MemOperand} (h : i.view = .modify op (.memory m)) :
    rowOf i ∈ (modifyForms op).map rowOf := by
  cases i <;> cases h <;> exact List.elem_iff.1 rfl

theorem modifyMemory_hasRows (op : ModifyOp) :
    HasRows (fun i => ∃ m, i.view = .modify op (.memory m)) ((modifyForms op).map rowOf) :=
  hasRows_of_forms (view_of_mem_modifyForms op) fun _ ⟨_, h⟩ => rowOf_mem_of_modifyMemory h

theorem mode_of_modifyMemory {i : Instr} {op : ModifyOp} {m : MemOperand} (h : i.view = .modify op (.memory m)) :
    i.mode = memMode m := by
  cases i <;> cases h <;> rfl

/-! ## What the shapes do -/

/-- The CPU's registers before a store are no part of its effect either: the port does not read them. -/
theorem storeEffect_of_setCpu {ea : Word} {d : Byte} {s t : State} {c : Cpu} (h : StoreEffect ea d (s.setCpu c) t) :
    StoreEffect ea d s t where
  host := ⟨h.host.irqLine, h.host.params, h.host.calls, h.host.loop⟩
  bytes := ⟨h.bytes.elsewhere, h.bytes.stored, h.bytes.notRam, h.bytes.regions⟩
  outside := h.outside
  inside hw := by
    obtain ⟨u, hport, hkept⟩ := h.inside hw
    rw [portWrite_setCpu] at hport
    obtain ⟨_, v, hwrite, hv⟩ := Res.bind_eq_ok hport
    cases hv
    exact ⟨v, hwrite, hkept⟩

/-- On a ready bus a read-modify-write instruction reads its operand and writes the result back to the same address; of the
CPU it changes the flags alone (R74, R150). -/
theorem modifyMemory_next {s : State} (h : BusReady s) (m : MemOperand) (n : Nat) (act : Byte → Flags → Byte × Flags) :
    ∃ ea crossed s1 d s2 t, effective m s = .ok (ea, crossed) s1 ∧ memRead ea s1 = .ok d s2 ∧ ReadFrame s s2 ∧
      modifyMemory m n act s = .next t ∧ t.cpu = { s.cpu with p := (act d s.cpu.p).2, cycles := n } ∧
      StoreEffect ea (act d s.cpu.p).1 s2 t := by
  obtain ⟨⟨ea, crossed⟩, s1, d, s2, hea, -, hd, hframe⟩ := operandRead_ready h m
  have hdone : (s2.setP (act d s.cpu.p).2).ppu.resetDone = true := (h.of_readFrame hframe).1
  obtain ⟨u, hu⟩ := memWrite_ready hdone ea (act d s.cpu.p).1
  obtain ⟨hcpu, heffect⟩ := memWrite_effect hu
  refine ⟨ea, crossed, s1, d, s2, u.setCycles n, hea, hd, hframe, ?_, ?_,
    storeEffect_setCpu (storeEffect_of_setCpu heffect) _⟩
  · rw [modifyMemory, hea, Res.bind_ok, hd, Res.bind_ok, hframe.cpu, hu, complete_ok]
  · rw [State.setCycles_cpu, hcpu, State.setP_cpu, hframe.cpu]

section
variable {op : ModifyOp} {result : Byte → Flags → Byte} {flags : Byte → Flags → Flags}

/-- The memory forms of an operation modify as their table rows and its act say. -/
theorem modifiesMemory_of_act (hact : ∀ m p, modifyAct op m p = (result m p, flags m p)) :
    ModifiesMemory op ((modifyForms op).map rowOf) result flags := by
  refine ⟨modifyMemory_hasRows op,
    fun i m hv => ⟨mode_of_modifyMemory hv, operandBytes_of_modifyMemory hv, fun s hready => ?_⟩⟩
  obtain ⟨ea, crossed, s1, d, s2, t, hnext⟩ := modifyMemory_next hready m i.baseCycles (modifyAct op)
  rw [← exec_modifyMemory hv, hact] at hnext
  exact ⟨ea, crossed, s1, d, s2, t, hnext⟩

/-- The accumulator form of an operation modifies as its act says, in two cycles. -/
theorem modifiesAccumulator_of_act {i : Instr} {opcode : Byte} (hrow : rowOf i = (opcode, .accumulator, 2, false))
    (hbytes : i.operandBytes = []) (hview : i.view = .modify op .accumulator)
    (hact : ∀ m p, modifyAct op m p = (result m p, flags m p)) : ModifiesAccumulator i opcode result flags := by
  obtain ⟨-, -, hcycles, -⟩ := (by simpa only [rowOf, Prod.mk.injEq] using hrow : _ ∧ _ ∧ i.baseCycles = 2 ∧ _)
  refine ⟨hrow, hbytes, fun s => ?_⟩
  rw [exec_modifyAccumulator hview, modifyAccumulator, hact, hcycles]
  rfl

end

/-! ## Shifts and rotates as numbers -/

theorem shiftLeft_one_eq (m : Byte) : m <<< 1 = BitVec.ofNat 8 (2 * m.toNat) := by
  apply BitVec.eq_of_toNat_eq
  rw [BitVec.toNat_shiftLeft, BitVec.toNat_ofNat, Nat.shiftLeft_eq, Nat.mul_comm]

theorem ushiftRight_one_eq (m : Byte) : m >>> 1 = BitVec.ofNat 8 (m.toNat / 2) := by
  have hm := m.isLt
  apply BitVec.eq_of_toNat_eq
  rw [BitVec.toNat_ushiftRight, BitVec.toNat_ofNat, Nat.shiftRight_eq_div_pow]
  omega

theorem setWidth_carry_toNat (carry : Bool) : ((BitVec.ofBool carry).setWidth 8).toNat = carry.toNat := by
  cases carry <;> rfl

/-- Bit 0 is free after a left shift, so the carry that enters it is added (R152). -/
theorem shiftLeft_one_or_carry (m : Byte) (carry : Bool) :
    m <<< 1 ||| (BitVec.ofBool carry).setWidth 8 = BitVec.ofNat 8 (2 * m.toNat + carry.toNat) := by
  have hcarry := carry.toNat_le
  have hshift : (m <<< 1).toNat = 2 ^ 1 * (m.toNat % 128) := by
    rw [shiftLeft_one_eq, BitVec.toNat_ofNat]
    omega
  apply BitVec.eq_of_toNat_eq
  rw [BitVec.toNat_or, setWidth_carry_toNat, hshift, ← Nat.two_pow_add_eq_or_of_lt (by omega), BitVec.toNat_ofNat]
  omega

/-- Bit 7 is free after a right shift, so the carry that enters it is added there (R153). -/
theorem ushiftRight_one_or_carry (m : Byte) (carry : Bool) :
    m >>> 1 ||| (BitVec.ofBool carry).setWidth 8 <<< 7 = BitVec.ofNat 8 (m.toNat / 2 + 128 * carry.toNat) := by
  have hm := m.isLt
  have hcarry := carry.toNat_le
  have hshift : ((BitVec.ofBool carry).setWidth 8 <<< 7).toNat = 2 ^ 7 * carry.toNat := by
    cases carry <;> rfl
  apply BitVec.eq_of_toNat_eq
  rw [BitVec.toNat_or, BitVec.toNat_ushiftRight, Nat.shiftRight_eq_div_pow, hshift, Nat.or_comm,
    ← Nat.two_pow_add_eq_or_of_lt (by omega), BitVec.toNat_ofNat]
  omega

theorem shiftLeft_eq (m : Byte) (p : Flags) : shiftLeft m p =
    (BitVec.ofNat 8 (2 * m.toNat), withNZ (BitVec.ofNat 8 (2 * m.toNat)) { p with c := m.getLsbD 7 }) := by
  rw [shiftLeft, setNZ_eq_withNZ, shiftLeft_one_eq]

theorem shiftRight_eq (m : Byte) (p : Flags) : shiftRight m p =
    (BitVec.ofNat 8 (m.toNat / 2), withNZ (BitVec.ofNat 8 (m.toNat / 2)) { p with c := m.getLsbD 0 }) := by
  rw [shiftRight, setNZ_eq_withNZ, ushiftRight_one_eq]

theorem rotateLeft_eq (m : Byte) (p : Flags) : rotateLeft m p = (BitVec.ofNat 8 (2 * m.toNat + p.c.toNat),
    withNZ (BitVec.ofNat 8 (2 * m.toNat + p.c.toNat)) { p with c := m.getLsbD 7 }) := by
  rw [rotateLeft, setNZ_eq_withNZ, shiftLeft_one_or_carry]

theorem rotateRight_eq (m : Byte) (p : Flags) : rotateRight m p = (BitVec.ofNat 8 (m.toNat / 2 + 128 * p.c.toNat),
    withNZ (BitVec.ofNat 8 (m.toNat / 2 + 128 * p.c.toNat)) { p with c := m.getLsbD 0 }) := by
  rw [rotateRight, setNZ_eq_withNZ, ushiftRight_one_or_carry]

/-- Settles O25, by what the two shapes do and the results of the four operations as numbers. -/
theorem shiftInstructions : Obligations.ShiftInstructions :=
  ⟨⟨modifiesMemory_of_act shiftLeft_eq, modifiesAccumulator_of_act rfl rfl rfl shiftLeft_eq⟩,
    ⟨modifiesMemory_of_act shiftRight_eq, modifiesAccumulator_of_act rfl rfl rfl shiftRight_eq⟩,
    ⟨modifiesMemory_of_act rotateLeft_eq, modifiesAccumulator_of_act rfl rfl rfl rotateLeft_eq⟩,
    ⟨modifiesMemory_of_act rotateRight_eq, modifiesAccumulator_of_act rfl rfl rfl rotateRight_eq⟩⟩

end Sys2Proof.Stated
end

section
/-! PROOFS. The arithmetic and comparison instructions: ADC and SBC by the numbers their bytes stand for, the comparisons, and
the steps by one in memory and in the index registers (spec/45_arithmetic_compare.md R154 to R164). -/

namespace Sys2Proof.Stated

open Sys2Proof.Machine

/-! ## ADC and SBC -/

theorem sumResult_eq (a m : Byte) (carry : Bool) :
    sumResult a m carry = BitVec.ofNat 8 (a.toNat + m.toNat + carry.toNat) := by
  apply BitVec.eq_of_toNat_eq
  rw [sumResult_toNat, BitVec.toNat_ofNat]

/-- The flags of a sum: C by its number, V by the signs of the inputs and of the result (R154). -/
theorem afterSum_eq (a m : Byte) (p : Flags) : p.afterSum a m = withNZ (sumResult a m p.c) { p with
    c := decide (255 < a.toNat + m.toNat + p.c.toNat)
    v := decide (a.msb = m.msb ∧ (sumResult a m p.c).msb ≠ a.msb) } := by
  rw [Flags.afterSum, setNZ_eq_withNZ, sumCarry_eq, sumOverflow_eq]

theorem addA_eq (m : Byte) (c : Cpu) :
    let sum := c.a.toNat + m.toNat + c.p.c.toNat
    let r : Byte := BitVec.ofNat 8 sum
    addA m c = { c with
      a := r
      p := withNZ r { c.p with c := decide (255 < sum), v := decide (c.a.msb = m.msb ∧ r.msb ≠ c.a.msb) } } := by
  rw [addA, afterSum_eq, sumResult_eq]

/-- Settles O26, by what a read instruction does on a ready bus and the sum by numbers; SBC adds the complement. -/
theorem addAndSubtractInstructions : Obligations.AddAndSubtractInstructions :=
  ⟨reads_of_act (funext₂ addA_eq), reads_of_act (funext₂ fun m => addA_eq (m ^^^ 0xFF))⟩

/-! ## Comparisons -/

theorem afterCompare_eq (r m : Byte) (p : Flags) : p.afterCompare r m =
    { p with c := decide (m.toNat ≤ r.toNat), z := decide (r = m), n := (r - m).msb } := by
  rw [BitVec.msb_eq_getLsbD_last]
  rfl

/-- An operation that compares a register with its operand changes the flags alone, by the numbers compared (R156 to R158). -/
theorem reads_of_compare {op : ReadOp} (register : Cpu → Byte)
    (hact : readAct op = fun m c => { c with p := c.p.afterCompare (register c) m }) :
    Reads op ((readForms op).map rowOf) fun m c => { c with p := { c.p with
      c := decide (m.toNat ≤ (register c).toNat), z := decide (register c = m), n := (register c - m).msb } } := by
  simp only [← afterCompare_eq]
  exact reads_of_act hact

/-- Settles O28, by the comparisons with A, X and Y. -/
theorem compareInstructions : Obligations.CompareInstructions :=
  ⟨reads_of_compare Cpu.a rfl, reads_of_compare Cpu.x rfl, reads_of_compare Cpu.y rfl⟩

/-! ## Steps by one in memory -/

theorem increment_eq (m : Byte) (p : Flags) : increment m p =
    (BitVec.ofNat 8 (m.toNat + 1), withNZ (BitVec.ofNat 8 (m.toNat + 1)) p) := by
  have hsum : m + 1 = BitVec.ofNat 8 (m.toNat + 1) := rfl
  rw [increment, setNZ_eq_withNZ, hsum]

/-- Modulo 256, taking 1 away is adding 255 (R160). -/
theorem decrement_eq (m : Byte) (p : Flags) : decrement m p =
    (BitVec.ofNat 8 (m.toNat + 255), withNZ (BitVec.ofNat 8 (m.toNat + 255)) p) := by
  have hdiff : m - 1 = BitVec.ofNat 8 (m.toNat + 255) := by bv_omega
  rw [decrement, setNZ_eq_withNZ, hdiff]

/-- Only the shifts and rotates have an accumulator form (R150 to R153). -/
theorem modifyOp_of_accumulator {i : Instr} {op : ModifyOp} (h : i.view = .modify op .accumulator) :
    op ∈ [ModifyOp.asl, .lsr, .rol, .ror] := by
  cases i <;> cases h <;> exact List.elem_iff.1 rfl

/-- Settles O29, by what a read-modify-write instruction does on a ready bus and the operations with an accumulator form. -/
theorem memoryIncrementAndDecrement : Obligations.MemoryIncrementAndDecrement :=
  ⟨modifiesMemory_of_act increment_eq, modifiesMemory_of_act decrement_eq,
    fun _ => ⟨mt modifyOp_of_accumulator (by decide), mt modifyOp_of_accumulator (by decide)⟩⟩

/-! ## Steps by one of the index registers -/

/-- Settles O30, by the loads of X and Y with the register's value one up or down. -/
theorem indexIncrementAndDecrement : Obligations.IndexIncrementAndDecrement :=
  ⟨implied_of_registerInstr rfl rfl (fun _ => rfl) fun c => loadX_eq (c.x + 1) c,
    implied_of_registerInstr rfl rfl (fun _ => rfl) fun c => loadY_eq (c.y + 1) c,
    implied_of_registerInstr rfl rfl (fun _ => rfl) fun c => loadX_eq (c.x - 1) c,
    implied_of_registerInstr rfl rfl (fun _ => rfl) fun c => loadY_eq (c.y - 1) c⟩

end Sys2Proof.Stated
end

section
/-! PROOFS. The branches, and the return from an interrupt (spec/46_control_transfer.md R165 to R172, R177). -/

namespace Sys2Proof.Stated

open Sys2Proof.Machine

/-! ## The branches -/

/-- The sign-extended displacement added to PC is the signed sum modulo 2^16 (R108, R128). -/
theorem relativeTarget_eq (pc : Word) (rr : Byte) : relativeTarget pc rr = BitVec.ofInt 16 (pc.toNat + rr.toInt) := by
  rw [relativeTarget, BitVec.signExtend, BitVec.ofInt_add, BitVec.ofInt_natCast, BitVec.ofNat_toNat, BitVec.setWidth_eq]

/-- A taken branch costs one cycle over the base cost, and one more when it leaves the page (R108). -/
theorem takenCost_eq (target pc : Word) : 2 + 1 + pagePenalty true (crossesPage target pc) =
    if target.toNat / 256 = pc.toNat / 256 then 3 else 4 := by
  rw [crossesPage_eq, pagePenalty]
  by_cases hpage : target.toNat / 256 = pc.toNat / 256 <;> simp [hpage]

/-- A branch writes PC and its cost alone (R108, R165 to R172). -/
theorem branchInstr_eq (cond : Flags → Bool) (rr : Byte) (s : State) :
    branchInstr 2 cond rr s = .next (s.setCpu { s.cpu with
      pc := if cond s.cpu.p then relativeTarget s.cpu.pc rr else s.cpu.pc
      cycles := if cond s.cpu.p then
        (if (relativeTarget s.cpu.pc rr).toNat / 256 = s.cpu.pc.toNat / 256 then 3 else 4) else 2 }) := by
  rw [branchInstr, takenCost_eq]
  split <;> rfl

/-- A branch's table row, its displacement and its condition say all it does. -/
theorem branch_of_branchInstr {build : Byte → Instr} {opcode : Byte} {cond : Flags → Bool}
    (h : ∀ rr, rowOf (build rr) = (opcode, .relative, 2, false) ∧ (build rr).operandBytes = [rr] ∧
      ∀ s, exec (build rr) s = branchInstr 2 cond rr s) : Branch build opcode cond := by
  intro rr s
  obtain ⟨hrow, hbytes, hexec⟩ := h rr
  refine ⟨hrow, hbytes, ?_⟩
  rw [hexec, branchInstr_eq, relativeTarget_eq]
  rfl

/-- Settles O31, by what a branch does on its condition. -/
theorem branchInstructions : Obligations.BranchInstructions :=
  ⟨branch_of_branchInstr fun _ => ⟨rfl, rfl, fun _ => rfl⟩, branch_of_branchInstr fun _ => ⟨rfl, rfl, fun _ => rfl⟩,
    branch_of_branchInstr fun _ => ⟨rfl, rfl, fun _ => rfl⟩, branch_of_branchInstr fun _ => ⟨rfl, rfl, fun _ => rfl⟩,
    branch_of_branchInstr fun _ => ⟨rfl, rfl, fun _ => rfl⟩, branch_of_branchInstr fun _ => ⟨rfl, rfl, fun _ => rfl⟩,
    branch_of_branchInstr fun _ => ⟨rfl, rfl, fun _ => rfl⟩, branch_of_branchInstr fun _ => ⟨rfl, rfl, fun _ => rfl⟩⟩

/-! ## The return from an interrupt -/

/-- A pull reads the stack byte above the SP of the CPU it runs with; no other register has a part in the read (R106). -/
theorem pull_setCpu_reads (c : Cpu) (s : State) : ∃ r s1, memRead (stackByte (c.sp + 1)) s = .ok r s1 ∧ ReadFrame s s1 ∧
    s1.ppu = s.ppu ∧ pull (s.setCpu c) = .ok r (s1.setCpu { c with sp := c.sp + 1 }) := by
  have hread := memRead_outside (stackAddress_outside (c.sp + 1)) s
  exact ⟨_, _, hread, memRead_frame hread, rfl, pull_eq (s.setCpu c)⟩

/-- A pull of a word likewise reads the two stack bytes above that SP, the low byte first (R107). -/
theorem pull16_setCpu_reads (c : Cpu) (s : State) : ∃ lo s1 hi s2, memRead (stackByte (c.sp + 1)) s = .ok lo s1 ∧
    memRead (stackByte (c.sp + 2)) s1 = .ok hi s2 ∧ ReadFrame s s2 ∧ s2.ppu = s.ppu ∧
    pull16 (s.setCpu c) = .ok (word16 hi lo) (s2.setCpu { c with sp := c.sp + 2 }) := by
  have hsp : c.sp + 1 + 1 = c.sp + 2 := BitVec.add_assoc ..
  obtain ⟨lo, s1, hlo, hframe, hppu, hpull⟩ := pull_setCpu_reads c s
  obtain ⟨hi, s2, hhi, hframe', hppu', hpull'⟩ := pull_setCpu_reads { c with sp := c.sp + 1 } s1
  rw [hsp] at hhi hpull'
  exact ⟨lo, s1, hi, s2, hlo, hhi, hframe.trans hframe', hppu'.trans hppu,
    by rw [pull16, hpull, Res.bind_ok, hpull', Res.bind_ok]⟩

/-- The return of RTI reads the status and the two bytes of PC above SP, in this order (R177). -/
theorem leave_reads (s : State) : ∃ r s1 lo s2 hi s3, memRead (stackByte (s.cpu.sp + 1)) s = .ok r s1 ∧
    memRead (stackByte (s.cpu.sp + 2)) s1 = .ok lo s2 ∧ memRead (stackByte (s.cpu.sp + 3)) s2 = .ok hi s3 ∧
    ReadFrame s s3 ∧ s3.ppu = s.ppu ∧
    leave s = .ok () (s3.setCpu { s.cpu with sp := s.cpu.sp + 3, p := .ofPulled r, pc := word16 hi lo }) := by
  have hsp2 : s.cpu.sp + 1 + 1 = s.cpu.sp + 2 := BitVec.add_assoc ..
  have hsp3 : s.cpu.sp + 1 + 2 = s.cpu.sp + 3 := BitVec.add_assoc ..
  obtain ⟨r, s1, hr, hframe, hppu, hpull⟩ := pull_reads s
  have hcpu : (s1.setSp (s.cpu.sp + 1)).setP (.ofPulled r) =
      s1.setCpu { s.cpu with sp := s.cpu.sp + 1, p := .ofPulled r } := by
    rw [← hframe.cpu]
    rfl
  obtain ⟨lo, s2, hi, s3, hlo, hhi, hframe', hppu', hpull'⟩ :=
    pull16_setCpu_reads { s.cpu with sp := s.cpu.sp + 1, p := .ofPulled r } s1
  rw [hsp2] at hlo
  rw [hsp3] at hhi hpull'
  refine ⟨r, s1, lo, s2, hi, s3, hr, hlo, hhi, hframe.trans hframe', hppu'.trans hppu, ?_⟩
  rw [leave, hpull, Res.bind_ok, hcpu, hpull', Res.bind_ok]
  rfl

/-- Settles O35, by the three pulls of the return. -/
theorem returnFromInterrupt : Obligations.ReturnFromInterrupt := by
  refine ⟨rfl, fun s => ?_⟩
  obtain ⟨r, s1, lo, s2, hi, s3, hr, hlo, hhi, hframe, hppu, hleave⟩ := leave_reads s
  refine ⟨r, s1, lo, s2, hi, s3, hr, hlo, hhi, hframe, hppu, ?_⟩
  rw [exec, execRti, hleave, complete_ok]
  rfl

end Sys2Proof.Stated
end

section
/-! PROOFS. What each call of the host does to vblank, the pending NMI and the sprite bits (spec/49_ppu_rendering.md R233 to
R235, spec/60_exceptions.md R242 to R244): the status events of a dot, and the sources of both flags over every call. -/

namespace Sys2Proof.Stated

open Sys2Proof.Machine

/-! ## The status events of a dot -/

/-- What the status events of a dot read, as it was: the status bits, the edge memory, the pending NMI, CTRL, MASK, the
parameters and the position. -/
structure StatusKept (s u : State) : Prop where
  vblank : u.ppu.vblank = s.ppu.vblank
  sprite0Hit : u.ppu.sprite0Hit = s.ppu.sprite0Hit
  spriteOverflow : u.ppu.spriteOverflow = s.ppu.spriteOverflow
  nmiOutputPrev : u.ppu.nmiOutputPrev = s.ppu.nmiOutputPrev
  nmiPending : u.nmiPending = s.nmiPending
  ctrl : u.ppu.ctrl = s.ppu.ctrl
  mask : u.ppu.mask = s.ppu.mask
  params : u.params = s.params
  scanline : u.ppu.scanline = s.ppu.scanline
  dot : u.ppu.dot = s.ppu.dot

/-- The background part and the pixel of a dot leave what its status events read (R224, R231). -/
theorem pixelDot_renderDot_statusKept (s : State) : StatusKept s (pixelDot (renderDot s)) := by
  obtain ⟨_, _, _, _, _, _, _, _, _, _, heq⟩ := renderDot_form s
  rw [pixelDot_form, heq]
  exact ⟨rfl, rfl, rfl, rfl, rfl, rfl, rfl, rfl, rfl, rfl⟩

/-- The status bits, the edge memory and the pending NMI after a dot are those its status events leave (R210). -/
theorem ppuDot_status (s : State) : ∃ u, StatusKept s u ∧
    (ppuDot s).ppu.vblank = (statusEvents s.ppu.scanline s.ppu.dot u).ppu.vblank ∧
    (ppuDot s).ppu.sprite0Hit = (statusEvents s.ppu.scanline s.ppu.dot u).ppu.sprite0Hit ∧
    (ppuDot s).ppu.spriteOverflow = (statusEvents s.ppu.scanline s.ppu.dot u).ppu.spriteOverflow ∧
    (ppuDot s).ppu.nmiOutputPrev = (statusEvents s.ppu.scanline s.ppu.dot u).ppu.nmiOutputPrev ∧
    (ppuDot s).nmiPending = (statusEvents s.ppu.scanline s.ppu.dot u).nmiPending := by
  have hu := pixelDot_renderDot_statusKept s
  refine ⟨_, hu, ?_⟩
  rw [← hu.scanline, ← hu.dot]
  obtain ⟨line, d, hadvance⟩ :=
    advance_form (statusEvents (pixelDot (renderDot s)).ppu.scanline (pixelDot (renderDot s)).ppu.dot
      (pixelDot (renderDot s))).ppu
  simp only [ppuDot, State.mapPpu_ppu, State.mapPpu_nmiPending, hadvance, and_self]

/-- The vblank bit, the edge memory and the pending NMI after a dot (R233, R234, R243). -/
theorem ppuDot_vblank (s : State) :
    ((ppuDot s).ppu.vblank = if s.ppu.scanline = 241 ∧ s.ppu.dot = 1 then true
      else if s.ppu.scanline = -1 ∧ s.ppu.dot = 1 then false else s.ppu.vblank) ∧
    ((ppuDot s).ppu.nmiOutputPrev = if s.ppu.scanline = 241 ∧ s.ppu.dot = 1 then s.ppu.ctrl.getLsbD 7
      else if s.ppu.scanline = -1 ∧ s.ppu.dot = 1 then false else s.ppu.nmiOutputPrev) ∧
    ((ppuDot s).nmiPending = if s.ppu.scanline = 241 ∧ s.ppu.dot = 1 then
      s.nmiPending || (s.ppu.ctrl.getLsbD 7 && !s.ppu.nmiOutputPrev) else s.nmiPending) := by
  obtain ⟨u, hu, hvblank, -, -, hprev, hpending⟩ := ppuDot_status s
  rw [hvblank, hprev, hpending, ← hu.vblank, ← hu.nmiOutputPrev, ← hu.nmiPending, ← hu.ctrl]
  exact statusEvents_vblank _ _ u

theorem ppuClock_eq_ok {s t : State} (h : ppuClock s = .ok () t) : t = ppuDot s := by
  unfold ppuClock at h
  split at h
  · cases h
  · cases h
    rfl

/-- Settles O54, by the status events of a dot: their cases exclude one another. -/
theorem vblankSetAndClear : Obligations.VblankSetAndClear := by
  intro s hreset
  obtain ⟨hvblank, hprev, hpending⟩ := ppuDot_vblank s
  obtain ⟨u, hu, -, hhit, hoverflow, -, -⟩ := ppuDot_status s
  obtain ⟨hclear, hhitStays, hoverflowStays, -, -⟩ := statusEvents_sprites s.ppu.scanline s.ppu.dot u
  obtain ⟨hhitSet, hoverflowSet⟩ := statusEvents_sets s.ppu.scanline s.ppu.dot u
  rw [← hhit, ← hoverflow] at hclear
  rw [← hhit, hu.sprite0Hit] at hhitStays hhitSet
  rw [← hoverflow, hu.spriteOverflow] at hoverflowStays hoverflowSet
  rw [hu.params, hu.mask] at hhitSet hoverflowSet
  refine ⟨ppuDot s, ppuClock_of_reset hreset, fun hline hdot => ?_, fun hline hdot => ?_, fun hset hclr => ?_,
    fun hclr => ⟨hhitStays hclr, hoverflowStays hclr⟩, fun hbefore hafter => ?_, fun hbefore hafter => ?_⟩
  · rw [hvblank, hprev, hpending]
    simp [hline, hdot]
  · obtain ⟨hhit0, hoverflow0⟩ := hclear hline hdot
    rw [hvblank, hprev, hpending]
    simp [hline, hdot, hhit0, hoverflow0]
  · rw [hvblank, hprev, hpending]
    simp only [if_neg hset, if_neg hclr, and_self]
  · exact (hhitSet hafter).resolve_left (by simp [hbefore])
  · exact (hoverflowSet hafter).resolve_left (by simp [hbefore])

/-! ## The register port -/

/-- No register read sets vblank, and none touches the pending NMI (R193, R207). -/
theorem portRead_flags {i : Nat} {s t : State} {d : Byte} (h : portRead i s = .ok d t) :
    (s.ppu.vblank = false → t.ppu.vblank = false) ∧ t.nmiPending = s.nmiPending := by
  obtain ⟨hstatus, hdata, hother⟩ := portRead_keeps h
  by_cases h2 : i = 2
  · rw [hstatus h2]
    exact ⟨fun _ => rfl, rfl⟩
  by_cases h7 : i = 7
  · obtain ⟨_, _, ht⟩ := hdata h7
    rw [ht]
    exact ⟨id, rfl⟩
  · obtain ⟨_, ht⟩ := hother h2 h7
    rw [ht]
    exact ⟨id, rfl⟩

/-- No register write changes vblank. -/
theorem portWrite_vblank {i : Nat} {s t : State} {d : Byte} (h : portWrite i d s = .ok () t) :
    t.ppu.vblank = s.ppu.vblank := by
  obtain ⟨⟨_, _, _, _, _, _, _, _, _, hppu⟩, -⟩ := portWrite_keeps h
  rw [hppu]

/-- A register write raises the pending NMI only as a CTRL write with NMI-enable set during vblank, and never takes it away
(R189, R243). -/
theorem portWrite_nmiPending {i : Nat} {s t : State} {d : Byte} (h : portWrite i d s = .ok () t) :
    (s.nmiPending = true → t.nmiPending = true) ∧
    (s.nmiPending = false → t.nmiPending = true → i = 0 ∧ d.getLsbD 7 = true ∧ s.ppu.vblank = true) := by
  obtain ⟨-, hother, -⟩ := portWrite_keeps h
  obtain ⟨hctrl, -, -⟩ := portWrite_answer h
  by_cases hi : i = 0
  · have hpending : t.nmiPending = (s.nmiPending || (s.ppu.vblank && d.getLsbD 7 && !s.ppu.nmiOutputPrev)) := by
      rw [hctrl hi]
      rfl
    rw [hpending]
    refine ⟨fun hp => by simp [hp], fun hp ht => ?_⟩
    simp only [hp, Bool.false_or, Bool.and_eq_true] at ht
    obtain ⟨⟨hvblank, henable⟩, -⟩ := ht
    exact ⟨hi, henable, hvblank⟩
  · obtain ⟨hpending, -, -⟩ := hother hi
    rw [hpending]
    exact ⟨id, fun hp ht => by simp [hp] at ht⟩

/-! ## The calls of the CPU -/

/-- What transfers of the processor bus can do to the two flags: they never set vblank, they raise a pending NMI only by a
CTRL write with NMI-enable set among them, and they never take one away. -/
structure NmiFrame (s t : State) (events : List IoEvent) : Prop where
  io : t.io = s.io ++ events
  vblank : s.ppu.vblank = false → t.ppu.vblank = false
  raised : s.nmiPending = false → t.nmiPending = true → ∃ e ∈ events, enablesNmi e
  kept : s.nmiPending = true → t.nmiPending = true

theorem NmiFrame.trans {s t u : State} {l m : List IoEvent} (h : NmiFrame s t l) (k : NmiFrame t u m) :
    NmiFrame s u (l ++ m) where
  io := by rw [k.io, h.io, List.append_assoc]
  vblank := k.vblank ∘ h.vblank
  kept := k.kept ∘ h.kept
  raised hs hu := by
    cases ht : t.nmiPending with
    | false =>
      obtain ⟨e, he, henable⟩ := k.raised ht hu
      exact ⟨e, List.mem_append_right l he, henable⟩
    | true =>
      obtain ⟨e, he, henable⟩ := h.raised hs ht
      exact ⟨e, List.mem_append_left m he, henable⟩

/-- Transfers that leave the pending NMI have the frame when they do not set vblank. -/
theorem nmiFrame_of_kept {s t : State} {events : List IoEvent} (hio : t.io = s.io ++ events)
    (hvblank : s.ppu.vblank = false → t.ppu.vblank = false) (hpending : t.nmiPending = s.nmiPending) :
    NmiFrame s t events :=
  ⟨hio, hvblank, fun hs ht => by simp [hpending, hs] at ht, fun hs => hpending.trans hs⟩

theorem memRead_vblank {a : Word} {s t : State} {d : Byte} (h : memRead a s = .ok d t) :
    s.ppu.vblank = false → t.ppu.vblank = false := by
  cases hw : inWindow a with
  | false =>
    rw [memRead_outside hw] at h
    cases h
    exact id
  | true =>
    obtain ⟨u, hread, hppu⟩ := memRead_inside_ppu h hw
    rw [hppu]
    exact (portRead_flags hread).1

theorem memRead_nmiFrame {a : Word} {s t : State} {d : Byte} (h : memRead a s = .ok d t) :
    ∃ events, NmiFrame s t events := by
  obtain ⟨events, ⟨hio, -⟩, -⟩ := memRead_recorded h
  exact ⟨_, nmiFrame_of_kept hio (memRead_vblank h) (memRead_frame h).nmiPending⟩

theorem memWrite_nmiFrame {a : Word} {s t : State} {d : Byte} (h : memWrite a d s = .ok () t) :
    ∃ events, NmiFrame s t events := by
  cases hw : inWindow a with
  | false =>
    rw [memWrite_outside hw] at h
    cases h
    exact ⟨[.cpuWrite a d], nmiFrame_of_kept rfl id rfl⟩
  | true =>
    rw [memWrite_inside hw] at h
    obtain ⟨_, u, hwrite, hk⟩ := Res.bind_eq_ok h
    cases hk
    obtain ⟨events, hio, -⟩ := portWrite_recorded hwrite
    obtain ⟨hkept, hraised⟩ := portWrite_nmiPending hwrite
    refine ⟨events ++ [.cpuWrite a d], ?_, (portWrite_vblank hwrite).trans, fun hs ht => ?_, hkept⟩
    · rw [State.record_io, hio, List.append_assoc]
    · obtain ⟨hindex, henable, -⟩ := hraised hs ht
      exact ⟨.cpuWrite a d, by simp, hw, hindex, henable⟩

/-- Every access of the processor bus, and so every instruction and every entry, has the frame of its transfers. -/
theorem nmiFrame_busRelation : BusRelation fun s t => ∃ events, NmiFrame s t events where
  refl s := ⟨[], nmiFrame_of_kept (by simp) id rfl⟩
  trans := by
    rintro s t u ⟨l, hl⟩ ⟨m, hm⟩
    exact ⟨l ++ m, hl.trans hm⟩
  cpu s c := ⟨[], nmiFrame_of_kept (by simp) id rfl⟩
  read := memRead_nmiFrame
  write := memWrite_nmiFrame

/-! ## Every call of the host -/

/-- A call that can neither set vblank nor move the pending NMI is no source of either. -/
theorem no_source_of_kept {s t : State} {p q r : Prop} (hvblank : s.ppu.vblank = false → t.ppu.vblank = false)
    (hpending : t.nmiPending = s.nmiPending) :
    (s.ppu.vblank = false → t.ppu.vblank = true → p) ∧ (s.nmiPending = false → t.nmiPending = true → q) ∧
      (s.nmiPending = true → t.nmiPending = false → r) :=
  ⟨fun hs ht => by simp [hvblank hs] at ht, fun hs ht => by simp [hpending, hs] at ht,
    fun hs ht => by simp [hpending, hs] at ht⟩

/-- Settles O39, by cases on the call: the CPU's by the frame of its transfers, the picture core's by the status events of
a dot and the register port. -/
theorem vblankAndNmiSources : Obligations.VblankAndNmiSources := by
  intro c s t h
  cases c with
  | cpuReset =>
    obtain ⟨lo, hi, -, -, heq⟩ := cpuReset_eq s
    have ht : cpuReset s = .ok () t := finish_eq_next h
    rw [heq] at ht
    cases ht
    exact ⟨fun hs ht => by simp [hs] at ht, fun _ ht => by simp at ht, fun _ _ => .inl rfl⟩
  | cpuClock =>
    obtain ⟨hzero, hnmi, events, hf⟩ | ⟨events, hf⟩ := nmiFrame_busRelation.clock h
    · exact ⟨fun hs ht => by simp [hf.vblank hs] at ht, fun hs => by simp [hs] at hnmi, fun _ _ => .inr ⟨rfl, hzero⟩⟩
    · exact ⟨fun hs ht => by simp [hf.vblank hs] at ht, fun hs ht => .inr (.inr ⟨rfl, events, hf.io, hf.raised hs ht⟩),
        fun hs ht => by simp [hf.kept hs] at ht⟩
  | ppuReset =>
    cases h
    exact no_source_of_kept (fun _ => rfl) rfl
  | ppuClock =>
    rw [ppuClock_eq_ok (finish_eq_next h)]
    obtain ⟨hvblank, -, hpending⟩ := ppuDot_vblank s
    rw [hvblank, hpending]
    by_cases hset : s.ppu.scanline = 241 ∧ s.ppu.dot = 1
    · obtain ⟨hline, hdot⟩ := hset
      refine ⟨fun _ _ => ⟨rfl, hline, hdot⟩, fun hs ht => .inl ⟨rfl, hline, hdot, ?_⟩, fun hs ht => ?_⟩
      · simp only [hline, hdot, hs, and_self, if_true, Bool.false_or, Bool.and_eq_true] at ht
        exact ht.1
      · simp [hline, hdot, hs] at ht
    · simp only [if_neg hset]
      exact ⟨fun hs ht => by simp [hs] at ht, fun hs ht => by simp [hs] at ht, fun hs ht => by simp [hs] at ht⟩
  | ppuRead i =>
    obtain ⟨d, u, hread, hu⟩ := Res.bind_eq_ok (finish_eq_next h)
    cases hu
    obtain ⟨hvblank, hpending⟩ := portRead_flags hread
    exact no_source_of_kept hvblank hpending
  | ppuWrite i d =>
    have hwrite := finish_eq_next h
    have hvblank := portWrite_vblank hwrite
    obtain ⟨hkept, hraised⟩ := portWrite_nmiPending hwrite
    refine ⟨fun hs ht => by simp [hvblank, hs] at ht, fun hs ht => .inr (.inl ?_), fun hs ht => by simp [hkept hs] at ht⟩
    obtain ⟨rfl, henable, hv⟩ := hraised hs ht
    exact ⟨d, rfl, henable, hv⟩
  | inspect =>
    cases h
    exact no_source_of_kept id rfl
  | setIrq level =>
    cases h
    exact no_source_of_kept id rfl

end Sys2Proof.Stated
end

section
/-! PROOFS. The flag instructions and NOP, the completion of every instruction, and the interrupts taken at a boundary
(spec/47_flag_ops_nop.md R178 to R185, spec/60_exceptions.md R241, R244 to R249). -/

namespace Sys2Proof.Stated

open Sys2Proof.Machine

/-- Settles O36: each of the eight is an act on the registers alone. -/
theorem flagInstructionsAndNop : Obligations.FlagInstructionsAndNop := by
  refine ⟨?_, ?_, ?_, ?_, ?_, ?_, ?_, ?_⟩ <;>
    exact implied_of_registerInstr rfl rfl (fun _ => rfl) fun _ => rfl

/-- Settles O11, by what every instruction does on a ready bus. -/
theorem everyInstructionCompletes : Obligations.EveryInstructionCompletes := fun i _ h => exec_ready i h

/-! ## Interrupts at a boundary -/

/-- A call that takes an entry ends one below the entry's cost of 7 (R102, R247). -/
theorem tick_entered {s t : State} {ret vector : Word} {b : Bool} {lo hi : Byte} (h : Entered s t ret b vector lo hi) :
    tick (.next t) = .next { t with cpu := { t.cpu with cycles := 6 } } := by
  have hcost : t.cpu.cycles = 7 := by rw [h.cpu]
  rw [tick, hcost]
  rfl

/-- A boundary with a pending NMI takes the NMI entry, with the flag cleared (R244, R246). -/
theorem beginCall_of_nmi {s : State} (h : s.nmiPending = true) :
    beginCall s = complete (enter s.cpu.pc false 0xFFFA { s with nmiPending := false }) 7 :=
  if_pos h

/-- A boundary with an unmasked IRQ and no NMI takes the IRQ entry (R245, R248). -/
theorem beginCall_of_irq {s : State} (hnmi : s.nmiPending = false) (hline : s.irqLine = true) (hi : s.cpu.p.i = false) :
    beginCall s = complete (enter s.cpu.pc false 0xFFFE s) 7 := by
  rw [beginCall, if_neg (by simp [hnmi]), if_pos (by simp [hline, hi])]
  rfl

/-- Settles O37, by what an entry does from the state with the flag cleared. -/
theorem pendingNmiIsTakenAtABoundary : Obligations.PendingNmiIsTakenAtABoundary := by
  intro s hreset hzero hnmi
  obtain ⟨lo, hi, t, ht, hentered⟩ := enter_entered { s with nmiPending := false } s.cpu.pc false (vector := 0xFFFA)
    (by decide) (by decide)
  exact ⟨lo, hi, t, hentered, by rw [cpuClock_of_boundary hreset hzero, beginCall_of_nmi hnmi, ht, tick_entered hentered]⟩

/-- At a boundary with no NMI pending an unmasked IRQ is taken (R245, R248). -/
theorem cpuClock_takes_irq {s : State} (hreset : s.cpu.resetDone = true) (hzero : s.cpu.cycles = 0)
    (hnmi : s.nmiPending = false) (hline : s.irqLine = true) (hi : s.cpu.p.i = false) :
    ∃ lo hi t, Entered s t s.cpu.pc false 0xFFFE lo hi ∧
      cpuClock s = .next { t with cpu := { t.cpu with cycles := 6 } } := by
  obtain ⟨lo, hi', t, ht, hentered⟩ := enter_entered s s.cpu.pc false (vector := 0xFFFE) (by decide) (by decide)
  exact ⟨lo, hi', t, hentered, by
    rw [cpuClock_of_boundary hreset hzero, beginCall_of_irq hnmi hline hi, ht, tick_entered hentered]⟩

/-- The state CLI leaves: the flag cleared and two calls to go (R180). -/
def afterCli (s : State) : State := { s with cpu := { s.cpu with p := { s.cpu.p with i := false }, cycles := 2 } }

theorem exec_cli (s : State) : exec .cli s = .next (afterCli s) := rfl

/-- Settles O38: the entry is made where the line is asserted and I is 0, and CLI's two calls end at such a boundary. -/
theorem irqIsTakenWhenUnmasked : Obligations.IrqIsTakenWhenUnmasked := by
  refine ⟨fun s => cpuClock_takes_irq, fun s hreset hzero hno => ?_, fun s hreset hnmi hline => ?_⟩
  · rw [cpuClock_of_boundary hreset hzero, beginCall_of_noInterrupt hno]
  · have hclocks : clocks 2 (afterCli s) = .next ((afterCli s).setCycles 0) :=
      clocks_countdown (s := afterCli s) hreset le_rfl
    obtain ⟨lo, hi, v, hentered, hclock⟩ :=
      cpuClock_takes_irq (s := (afterCli s).setCycles 0) hreset rfl hnmi hline rfl
    exact ⟨_, _, lo, hi, v, exec_cli s, hclocks, hentered, hclock⟩

end Sys2Proof.Stated
end

section
/-! PROOFS. The position in the frame (spec/49_ppu_rendering.md R211, R212). -/

namespace Sys2Proof.Stated

open Sys2Proof.Machine

/-- The position lies in the frame (R49). -/
structure InFrame (p : Ppu) : Prop where
  first : -1 ≤ p.scanline
  last : p.scanline ≤ 260
  dot : p.dot ≤ 340

/-- The advance moves the dot on, and at the last dot of a line the line, from 260 back to -1 (R211). -/
theorem advance_position (p : Ppu) :
    (advance p).dot = (if p.dot = 340 then 0 else p.dot + 1) ∧
    (advance p).scanline = (if p.dot = 340 then (if p.scanline = 260 then -1 else p.scanline + 1) else p.scanline) := by
  unfold advance
  by_cases hdot : p.dot = 340
  · by_cases hline : p.scanline = 260
    · simp [hdot, hline]
    · simp [hdot, hline, show p.scanline + 1 ≠ 261 by omega]
  · simp [hdot]

/-- A dot moves the position on as the advance does, and the PPU stays reset (R210). -/
theorem ppuDot_position (s : State) : (ppuDot s).ppu.scanline = (advance s.ppu).scanline ∧
    (ppuDot s).ppu.dot = (advance s.ppu).dot ∧ (ppuDot s).ppu.resetDone = s.ppu.resetDone := by
  obtain ⟨_, _, _, _, _, _, _, _, _, _, hrender⟩ := renderDot_form s
  obtain ⟨_, _, _, _, _, _, heq⟩ := ppuDot_form s
  rw [heq, hrender]
  exact ⟨rfl, rfl, rfl⟩

theorem ppuDot_inFrame {s : State} (h : InFrame s.ppu) : InFrame (ppuDot s).ppu := by
  obtain ⟨hline, hdot, -⟩ := ppuDot_position s
  obtain ⟨⟨hfirst, hlast⟩, hd⟩ := advance_range ⟨h.first, h.last⟩ h.dot
  exact ⟨hline ▸ hfirst, hline ▸ hlast, hdot ▸ hd⟩

/-- A frame has 262 lines of 341 dots (R212). -/
theorem positionNumber_range {p : Ppu} (h : InFrame p) : 0 ≤ positionNumber p ∧ positionNumber p < 89342 := by
  obtain ⟨hfirst, hlast, hdot⟩ := h
  unfold positionNumber
  omega

/-- The number of a position in the frame gives the position back. -/
theorem position_eq_of_number {p q : Ppu} (hp : InFrame p) (hq : InFrame q)
    (h : positionNumber p = positionNumber q) : p.scanline = q.scanline ∧ p.dot = q.dot := by
  have := hp.dot
  have := hq.dot
  unfold positionNumber at h
  omega

theorem ppuDot_positionNumber {s : State} (h : InFrame s.ppu) :
    positionNumber (ppuDot s).ppu = (positionNumber s.ppu + 1) % 89342 := by
  obtain ⟨hline, hdot, -⟩ := ppuDot_position s
  obtain ⟨hadot, haline⟩ := advance_position s.ppu
  obtain ⟨hfirst, hlast, hd⟩ := h
  unfold positionNumber
  rw [hline, hdot, hadot, haline]
  by_cases hd340 : s.ppu.dot = 340
  · by_cases hl260 : s.ppu.scanline = 260
    · simp [hd340, hl260]
    · simp only [hd340, hl260, if_true, if_false]
      omega
  · simp only [hd340, if_false]
    omega

theorem dots_succ {s : State} (h : s.ppu.resetDone = true) (n : Nat) : dots (n + 1) s = dots n (ppuDot s) := by
  rw [dots, runCall, ppuClock_of_reset h, Res.finish_ok]

/-- `n` PPU clocks answer, keep the position in the frame and move it on by `n` dots (R211, R212). -/
theorem dots_positionNumber (n : Nat) {s : State} (hreset : s.ppu.resetDone = true) (h : InFrame s.ppu) :
    ∃ t, dots n s = .next t ∧ t.ppu.resetDone = true ∧ InFrame t.ppu ∧
      positionNumber t.ppu = (positionNumber s.ppu + n) % 89342 := by
  induction n generalizing s with
  | zero =>
    obtain ⟨hlow, hhigh⟩ := positionNumber_range h
    exact ⟨s, rfl, hreset, h, by omega⟩
  | succ n ih =>
    obtain ⟨-, -, hdone⟩ := ppuDot_position s
    obtain ⟨t, ht, htreset, hframe, hnumber⟩ := ih (hdone.trans hreset) (ppuDot_inFrame h)
    refine ⟨t, (dots_succ hreset n).trans ht, htreset, hframe, ?_⟩
    rw [hnumber, ppuDot_positionNumber h]
    omega

/-- Settles O53, by the number of the position, which `n` dots move on by `n`. -/
theorem frameIsOf89342Dots : Obligations.FrameIsOf89342Dots := by
  intro s hreset hfirst hlast hd
  have hframe : InFrame s.ppu := ⟨hfirst, hlast, hd⟩
  refine ⟨⟨ppuDot s, ppuClock_of_reset hreset, ?_⟩, fun n => ?_, ?_⟩
  · obtain ⟨hline, hdot, -⟩ := ppuDot_position s
    rw [hline, hdot]
    exact advance_position s.ppu
  · obtain ⟨t, ht, htreset, htframe, hnumber⟩ := dots_positionNumber n hreset hframe
    exact ⟨t, ht, htreset, hnumber, htframe.first, htframe.last, htframe.dot⟩
  · obtain ⟨t, ht, -, htframe, hnumber⟩ := dots_positionNumber 89342 hreset hframe
    have hsame : positionNumber t.ppu = positionNumber s.ppu := by
      have := positionNumber_range hframe
      omega
    exact ⟨t, ht, position_eq_of_number htframe hframe hsame⟩

end Sys2Proof.Stated
end

section
/-! PROOFS. The register port (spec/48_ppu_registers.md R187 to R207): what each register's read and write does. -/

namespace Sys2Proof.Stated

open Sys2Proof.Machine

/-! ## The checks of the port -/

theorem portRead_of_bad_index {s : State} (h : s.ppu.resetDone = true) {i : Nat} (hi : 7 < i) :
    portRead i s = .fault (.badRegisterIndex i) :=
  (if_neg (by simp [h])).trans (if_pos hi)

theorem portWrite_of_bad_index {s : State} (h : s.ppu.resetDone = true) {i : Nat} (hi : 7 < i) (d : Byte) :
    portWrite i d s = .fault (.badRegisterIndex i) :=
  (if_neg (by simp [h])).trans (if_pos hi)

/-- A read of a write-only register answers a draw and changes nothing else (R188). -/
theorem portRead_write_only {s : State} (h : s.ppu.resetDone = true) {i : Nat} (hi : i ∈ [0, 1, 3, 5, 6]) :
    portRead i s = .ok (Config.openBusRead s.draws) { s with draws := s.draws + 1 } := by
  simp only [List.mem_cons, List.not_mem_nil, or_false] at hi
  unfold portRead
  rw [if_neg (by simp [h])]
  obtain rfl | rfl | rfl | rfl | rfl := hi <;> rfl

/-! ## The writes of a reset PPU -/

section

variable {s : State} (h : s.ppu.resetDone = true)
include h

theorem portWrite_ctrl (d : Byte) : portWrite 0 d s = .ok () (writeCtrl d s) := by
  simp [portWrite, h]

theorem portWrite_mask (d : Byte) : portWrite 1 d s = .ok () (writeMask d s) := by
  simp [portWrite, h]

theorem portWrite_status (d : Byte) : portWrite 2 d s = .ok () s := by
  simp [portWrite, h]

theorem portWrite_oamAddr (d : Byte) : portWrite 3 d s = .ok () (writeOamAddr d s) := by
  simp [portWrite, h]

theorem portWrite_oamData (d : Byte) : portWrite 4 d s = .ok () (writeOamData d s) := by
  simp [portWrite, h]

theorem portWrite_scroll (d : Byte) : portWrite 5 d s = .ok () (writeScroll d s) := by
  simp [portWrite, h]

theorem portWrite_addr (d : Byte) : portWrite 6 d s = .ok () (writeAddr d s) := by
  simp [portWrite, h]

theorem portRead_oamData : portRead 4 s = readOamData s := by
  simp [portRead, h]

end

/-- Settles O40, check by check. -/
theorem portChecks : Obligations.PortChecks := by
  intro i d s
  refine ⟨fun hreset => ⟨portRead_of_not_reset hreset i, portWrite_of_not_reset hreset i d⟩,
    fun hreset hi => ⟨portRead_of_bad_index hreset hi, portWrite_of_bad_index hreset hi d⟩,
    fun hreset hi => ⟨portWrite_ready hreset (Nat.lt_succ_of_le hi) d,
      portRead_answers hreset (Nat.lt_succ_of_le hi)⟩,
    fun hreset hrefuse hmask => ?_, fun hreset => portWrite_status hreset d,
    fun hreset hi => ⟨_, portRead_write_only hreset hi⟩⟩
  rw [portRead_status hreset, readStatus_refused ⟨hrefuse, hmask⟩]

/-! ## The fields of `t` a write fills -/

/-- CTRL bits 1 and 0 are the nametable bits (R189). -/
theorem ctrl_fills_nametable (t : BitVec 15) (d : Byte) :
    (t &&& 0x73FF#15) ||| ((d.setWidth 15 &&& 0x03) <<< 10) =
      vramAddress (fineY t) (d.extractLsb' 0 2) (coarseY t) (coarseX t) := by
  apply BitVec.eq_of_getLsbD_eq
  intro i hi
  rw [getLsbD_vramAddress]
  interval_cases i <;> simp [fineY, coarseY, coarseX]

/-- The first SCROLL write fills coarse X (R197). -/
theorem scroll_fills_coarseX (t : BitVec 15) (d : Byte) :
    (t &&& 0x7FE0#15) ||| (d.setWidth 15 >>> 3) =
      vramAddress (fineY t) (nametable t) (coarseY t) (d.extractLsb' 3 5) := by
  apply BitVec.eq_of_getLsbD_eq
  intro i hi
  rw [getLsbD_vramAddress]
  interval_cases i <;> simp [fineY, nametable, coarseY]

/-- The second SCROLL write fills fine Y and coarse Y (R198). -/
theorem scroll_fills_y (t : BitVec 15) (d : Byte) :
    (t &&& 0x0C1F#15) ||| ((d.setWidth 15 &&& 0x07) <<< 12) ||| ((d.setWidth 15 >>> 3) <<< 5) =
      vramAddress (d.extractLsb' 0 3) (nametable t) (d.extractLsb' 3 5) (coarseX t) := by
  apply BitVec.eq_of_getLsbD_eq
  intro i hi
  rw [getLsbD_vramAddress]
  interval_cases i <;> simp [nametable, coarseX]

/-- The first ADDR write fills bits 13 to 8 and clears bit 14 (R199). -/
theorem addr_fills_high (t : BitVec 15) (d : Byte) :
    (t &&& 0x00FF#15) ||| ((d.setWidth 15 &&& 0x3F) <<< 8) = 0#1 ++ d.extractLsb' 0 6 ++ t.extractLsb' 0 8 := by
  apply BitVec.eq_of_getLsbD_eq
  intro i hi
  simp only [BitVec.getLsbD_append]
  interval_cases i <;> simp

/-- The second ADDR write fills the low eight bits (R200). -/
theorem addr_fills_low (t : BitVec 15) (d : Byte) :
    (t &&& 0x7F00#15) ||| d.setWidth 15 = t.extractLsb' 8 7 ++ d := by
  apply BitVec.eq_of_getLsbD_eq
  intro i hi
  simp only [BitVec.getLsbD_append]
  interval_cases i <;> simp

/-- Settles O41: what the two writes store, and the nametable bits of `t`. -/
theorem controlAndMaskWrites : Obligations.ControlAndMaskWrites := by
  intro d s hreset
  refine ⟨?_, portWrite_mask hreset d⟩
  rw [portWrite_ctrl hreset, ← ctrl_fills_nametable]
  rfl

theorem setWidth_three_eq (d : Byte) : d.setWidth 3 = d.extractLsb' 0 3 := by
  apply BitVec.eq_of_getLsbD_eq
  intro i hi
  simp [hi]

/-- The first ADDR write fills the high bits of `t` and sets the latch (R199). -/
theorem writeAddr_first {s : State} (hw : s.ppu.w = false) (d : Byte) : writeAddr d s = { s with ppu := { s.ppu with
    t := 0#1 ++ d.extractLsb' 0 6 ++ s.ppu.t.extractLsb' 0 8
    w := true } } := by
  rw [writeAddr, if_neg (by simp [hw]), addr_fills_high]

/-- The second ADDR write fills the low bits of `t`, copies `t` to `v` and clears the latch (R200). -/
theorem writeAddr_second {s : State} (hw : s.ppu.w = true) (d : Byte) : writeAddr d s = { s with ppu := { s.ppu with
    t := s.ppu.t.extractLsb' 8 7 ++ d
    v := s.ppu.t.extractLsb' 8 7 ++ d
    w := false } } := by
  rw [writeAddr, if_pos hw, addr_fills_low]

/-- Settles O42, by cases on the latch. -/
theorem scrollAndAddressWrites : Obligations.ScrollAndAddressWrites := by
  intro d s hreset
  rw [portWrite_scroll hreset, portWrite_addr hreset]
  refine ⟨fun hw => ⟨?_, ?_⟩, fun hw => ⟨?_, ?_⟩⟩
  · rw [writeScroll, if_neg (by simp [hw]), scroll_fills_coarseX, setWidth_three_eq]
  · rw [writeAddr_first hw]
  · rw [writeScroll, if_pos hw, scroll_fills_y]
  · rw [writeAddr_second hw]

/-! ## STATUS -/

/-- The three stored bits lie above the five undriven ones (R192). -/
theorem statusByte_bits (p : Ppu) (low5 : BitVec 5) : (statusByte p low5).getLsbD 7 = p.vblank ∧
    (statusByte p low5).getLsbD 6 = p.sprite0Hit ∧ (statusByte p low5).getLsbD 5 = p.spriteOverflow := by
  simp only [statusByte, BitVec.getLsbD_append]
  simp

/-- A STATUS read on a ready bus (R192, R193). -/
theorem portRead_status_ready {s : State} (h : BusReady s) :
    portRead 2 s = .ok (statusByte s.ppu (Config.statusLowBits s.draws)) { s with
      draws := s.draws + 1
      ppu := { s.ppu with vblank := false, w := false, nmiOutputPrev := false } } := by
  obtain ⟨hreset, hstatus⟩ := h
  rw [portRead_status hreset, readStatus, if_neg hstatus]
  simp [updateNmi, State.nextDraw]

/-- Settles O43: two reads in a row, the second of the bits the first left. -/
theorem statusReadClearsVblankAndLatch : Obligations.StatusReadClearsVblankAndLatch := by
  intro s h
  obtain ⟨hv, hs, ho⟩ := statusByte_bits s.ppu (Config.statusLowBits s.draws)
  obtain ⟨hv', hs', ho'⟩ := statusByte_bits { s.ppu with vblank := false, w := false, nmiOutputPrev := false }
    (Config.statusLowBits (s.draws + 1))
  exact ⟨_, _, _, _, portRead_status_ready h, portRead_status_ready (by exact h), hv, hs, ho,
    rfl, hv', hs', ho', rfl, rfl⟩

/-! ## OAM -/

theorem oamPeek_store_same (o : Oam) (k d : Byte) : oamPeek (oamStore o k d) k = d := by
  rw [oamPeek, oamStore, cellsFind_insert_same, Option.getD_some]

theorem oamPeek_store_other {k j : Byte} (h : j ≠ k) (o : Oam) (d : Byte) :
    oamPeek (oamStore o k d) j = oamPeek o j := by
  rw [oamPeek, oamStore, cellsFind_insert_other fun hn => h (BitVec.eq_of_toNat_eq hn), oamPeek]

/-- The byte with the undriven bits is the third of a sprite's four (R195). -/
theorem and3_eq_2_iff (k : Byte) : k &&& 0x03 = 0x02 ↔ k.toNat % 4 = 2 := by
  rw [← BitVec.toNat_inj, BitVec.toNat_and]
  change k.toNat &&& 2 ^ 2 - 1 = 2 ↔ _
  rw [Nat.and_two_pow_sub_one_eq_mod]

theorem portRead_oamData_eq {u : State} (h : u.ppu.resetDone = true) :
    portRead 4 u = .ok (if u.ppu.oamAddr.toNat % 4 = 2 then oamPeek u.ppu.oam u.ppu.oamAddr &&& 0xE3
      else oamPeek u.ppu.oam u.ppu.oamAddr) u := by
  rw [portRead_oamData h, readOamData]
  simp only [and3_eq_2_iff]

/-- Settles O44, by what OAM holds after a store at the index and at every other. -/
theorem oamPort : Obligations.OamPort := by
  intro k j d s hreset
  refine ⟨portWrite_oamAddr hreset k, writeOamData d s, portWrite_oamData hreset d, rfl, rfl,
    fun u hu hoam haddr => ?_, fun hj u u' hu hu' hoam hoam' haddr haddr' => ?_⟩
  · have hpeek : oamPeek u.ppu.oam u.ppu.oamAddr = d := by
      rw [hoam, haddr]
      exact oamPeek_store_same ..
    rw [portRead_oamData_eq hu, hpeek]
  · have hpeek : oamPeek u.ppu.oam j = oamPeek u'.ppu.oam j := by
      rw [hoam, hoam']
      exact oamPeek_store_other hj ..
    refine ⟨_, portRead_oamData_eq hu, ?_⟩
    rw [portRead_oamData_eq hu', haddr, haddr', hpeek]

end Sys2Proof.Stated
end

section
/-! PROOFS. The DATA port after ADDR writes, and what no call of the port changes (spec/48_ppu_registers.md R199 to R207). -/

namespace Sys2Proof.Stated

open Sys2Proof.Machine

/-! ## The data-port round trip -/

/-- The two bytes of an address below 0x4000, written to ADDR, give `v` that address (R199, R200). -/
theorem addr_bytes_give_v {n : Word} (hn : n.toNat < 0x4000) (t : BitVec 15) :
    (0#1 ++ (highByte n).extractLsb' 0 6 ++ t.extractLsb' 0 8 : BitVec 15).extractLsb' 8 7 ++ lowByte n =
      n.setWidth 15 := by
  apply BitVec.eq_of_toNat_eq
  simp only [toNat_append_eq, BitVec.extractLsb'_toNat, Nat.shiftRight_eq_div_pow, highByte_toNat, lowByte_toNat,
    BitVec.toNat_setWidth, BitVec.reduceToNat]
  omega

/-- The machine with `t` and `v` set to an address and the latch clear. -/
def atVram (n : Word) (s : State) : State :=
  { s with ppu := { s.ppu with t := n.setWidth 15, v := n.setWidth 15, w := false } }

/-- With the latch clear two ADDR writes set `t` and `v` to an address below 0x4000 (R199, R200). -/
theorem portWrite_addr_twice {s : State} (hreset : s.ppu.resetDone = true) (hw : s.ppu.w = false) {n : Word}
    (hn : n.toNat < 0x4000) : ∃ s1, portWrite 6 (highByte n) s = .ok () s1 ∧
      portWrite 6 (lowByte n) s1 = .ok () (atVram n s) := by
  refine ⟨_, (portWrite_addr hreset _).trans (congrArg _ (writeAddr_first hw _)), ?_⟩
  rw [portWrite_addr (by exact hreset), writeAddr_second rfl, addr_bytes_give_v hn]
  rfl

theorem dataPortAddress_atVram {n : Word} (hn : n.toNat < 0x4000) (s : State) :
    (dataPortAddress (atVram n s).ppu).toNat = n.toNat := by
  rw [dataPortAddress_toNat, atVram, BitVec.toNat_setWidth]
  omega

/-- A read below palette space answers the buffer, refills it and moves `v` on (R201, R203). -/
theorem portRead_below_palette {s : State} (hreset : s.ppu.resetDone = true)
    (ha : (dataPortAddress s.ppu).toNat < 0x3F00) : ∃ t, portRead 7 s = .ok s.ppu.readBuffer t ∧
      t.ppu = { s.ppu with
        readBuffer := ppuBusAnswer (dataPortAddress s.ppu) s
        v := BitVec.ofNat 15 (s.ppu.v.toNat + (if s.ppu.ctrl.getLsbD 2 then 32 else 1)) } :=
  ⟨_, (portRead_data hreset).trans (readData_below_palette rfl ha), by rw [incrementDataPort_v]⟩

/-- Of two reads below palette space the first answers the buffer, the second what the first's address answered. -/
theorem portRead_twice_below_palette {s : State} (hreset : s.ppu.resetDone = true)
    (ha : (dataPortAddress s.ppu).toNat + (if s.ppu.ctrl.getLsbD 2 then 32 else 1) < 0x3F00) :
    ∃ t u, portRead 7 s = .ok s.ppu.readBuffer t ∧ portRead 7 t = .ok (ppuBusAnswer (dataPortAddress s.ppu) s) u := by
  obtain ⟨t, ht, hppu⟩ := portRead_below_palette hreset (by omega)
  have hnext : (dataPortAddress t.ppu).toNat < 0x3F00 := by
    rw [dataPortAddress_toNat] at ha ⊢
    rw [hppu, BitVec.toNat_ofNat]
    omega
  obtain ⟨u, hu, -⟩ := portRead_below_palette (by rw [hppu]; exact hreset) hnext
  exact ⟨t, u, ht, by rw [hu, hppu]⟩

/-- A DATA write to RAM is what the address answers from then on, whatever `v` moves to (R70, R202). -/
theorem ppuBusAnswer_writeData {s t : State} {a : BitVec 14} {d : Byte} (ha : a.toNat = (dataPortAddress s.ppu).toNat)
    (hram : s.ppuBus.kindAt a.toNat = .ram) (ht : t.ppuBus = (writeData d s).ppuBus) : ppuBusAnswer a t = d := by
  have hbus : t.ppuBus = s.ppuBus.store a.toNat d := by
    rw [ht, ha]
    rfl
  rw [ppuBusAnswer_plain] <;> rw [hbus]
  · exact Bus.peek_store_same hram d
  · simp [hram]

/-- Settles O46: the first read refills the buffer with the byte written, the second, still below palette space, answers
the buffer. -/
theorem dataPortRoundTrip : Obligations.DataPortRoundTrip := by
  intro s n d hreset hw hlow hhigh hram
  have hn : n.toNat < 0x4000 := by omega
  obtain ⟨s1, h1, h2⟩ := portWrite_addr_twice hreset hw hn
  obtain ⟨s4, h4, h5⟩ := portWrite_addr_twice (s := writeData d (atVram n s)) hreset rfl hn
  have haddr := dataPortAddress_atVram hn
  have hanswer : ppuBusAnswer (dataPortAddress (atVram n (writeData d (atVram n s))).ppu)
      (atVram n (writeData d (atVram n s))) = d :=
    ppuBusAnswer_writeData (s := atVram n s) (by rw [haddr, haddr]) (by rw [haddr]; exact hram) rfl
  obtain ⟨s6, s7, h6, h7⟩ := portRead_twice_below_palette (s := atVram n (writeData d (atVram n s))) hreset
    (by rw [haddr]; exact hhigh)
  rw [hanswer] at h7
  exact ⟨s1, _, _, s4, _, s6, s7, h1, h2, portWrite_data (s := atVram n s) hreset d, h4, h5, h6, h7⟩

/-! ## What a port call leaves -/

/-- A SCROLL write changes `t`, fine X and the latch (R197, R198). -/
theorem writeScroll_form (d : Byte) (s : State) :
    ∃ u x w, writeScroll d s = { s with ppu := { s.ppu with t := u, x := x, w := w } } := by
  unfold writeScroll
  split <;> exact ⟨_, _, _, rfl⟩

/-- An ADDR write changes `t`, `v` and the latch (R199, R200). -/
theorem writeAddr_form (d : Byte) (s : State) :
    ∃ u v w, writeAddr d s = { s with ppu := { s.ppu with t := u, v := v, w := w } } := by
  unfold writeAddr
  split <;> exact ⟨_, _, _, rfl⟩

/-- Which writes reach MASK, the OAM index, fine X, the latch, `t` and `v` (R189 to R203). -/
theorem portWrite_registers {i : Nat} {d : Byte} {s t : State} (h : portWrite i d s = .ok () t) :
    (i ≠ 1 → t.ppu.mask = s.ppu.mask) ∧
    (i ≠ 3 → i ≠ 4 → t.ppu.oamAddr = s.ppu.oamAddr) ∧
    (i ≠ 5 → t.ppu.x = s.ppu.x) ∧
    (i ≠ 5 → i ≠ 6 → t.ppu.w = s.ppu.w) ∧
    (i ≠ 0 → i ≠ 5 → i ≠ 6 → t.ppu.t = s.ppu.t) ∧
    (i ≠ 6 → i ≠ 7 → t.ppu.v = s.ppu.v) := by
  unfold portWrite at h
  split at h
  · cases h
  split at h
  · cases h
  split at h <;> cases h
  case h_5 =>
    obtain ⟨_, _, _, heq⟩ := writeScroll_form d s
    simp [heq]
  case h_6 =>
    obtain ⟨_, _, _, heq⟩ := writeAddr_form d s
    simp [heq]
  all_goals simp [writeCtrl, updateNmi, writeMask, writeOamAddr, writeOamData, writeData, incrementDataPort, ppuBusWrite]

/-- The reads of STATUS and DATA are the ones that reach the picture core (R188, R193, R195, R201). -/
theorem portRead_leaves {i : Nat} {s t : State} {d : Byte} (h : portRead i s = .ok d t) :
    (i ≠ 2 → t.ppu.vblank = s.ppu.vblank ∧ t.ppu.w = s.ppu.w ∧ t.ppu.nmiOutputPrev = s.ppu.nmiOutputPrev) ∧
    (i ≠ 7 → t.ppu.v = s.ppu.v ∧ t.ppu.readBuffer = s.ppu.readBuffer ∧ Recorded s t []) := by
  obtain ⟨hstatus, hdata, hother⟩ := portRead_keeps h
  by_cases h2 : i = 2
  · rw [hstatus h2]
    exact ⟨fun hn => absurd h2 hn, fun _ => ⟨rfl, rfl, by simp, rfl⟩⟩
  by_cases h7 : i = 7
  · obtain ⟨_, _, ht⟩ := hdata h7
    rw [ht]
    exact ⟨fun _ => ⟨rfl, rfl, rfl⟩, fun hn => absurd h7 hn⟩
  · obtain ⟨_, ht⟩ := hother h2 h7
    rw [ht]
    exact ⟨fun _ => ⟨rfl, rfl, rfl⟩, fun _ => ⟨rfl, rfl, by simp, rfl⟩⟩

/-- Settles O47: a read by the five fields it can change, a write by the registers its rule names. -/
theorem portCallsChangeOnlyTheirRegister : Obligations.PortCallsChangeOnlyTheirRegister := by
  refine fun i s t => ⟨fun ⟨d, h⟩ => ?_, fun d h => ?_⟩
  · obtain ⟨hstatus, hdata⟩ := portRead_leaves h
    have hside := portRead_cpuSideKept h
    obtain ⟨_, _, _, _, _, _, _, rfl⟩ := portRead_form h
    exact ⟨⟨rfl, rfl, rfl, rfl, rfl, rfl, rfl, rfl, rfl, rfl, rfl, rfl, rfl⟩, hside,
      rfl, rfl, rfl, rfl, rfl, rfl, rfl, rfl, rfl, hstatus, hdata⟩
  · obtain ⟨hmask, haddr, hx, hw, ht, hv⟩ := portWrite_registers h
    obtain ⟨⟨_, _, _, _, _, _, _, _, _, hppu⟩, hctrl, hbus, hdraws, hoam⟩ := portWrite_keeps h
    obtain ⟨-, -, host⟩ := portWrite_frame h
    have hpipeline : PipelineKept s.ppu t.ppu := by
      rw [hppu]
      exact ⟨rfl, rfl, rfl, rfl, rfl, rfl, rfl, rfl, rfl, rfl, rfl, rfl, rfl⟩
    refine ⟨hpipeline, portWrite_cpuSideKept h, portWrite_vblank h, by rw [hppu], host.irqLine, hdraws, hctrl, hmask,
      haddr, hoam, hx, hw, ht, hv, fun hi => ?_⟩
    obtain ⟨hppuBus, hio, hhistory⟩ := hbus hi
    exact ⟨hppuBus, by simp [hio], hhistory⟩

end Sys2Proof.Stated
end

section
/-! PROOFS. A dot of a rendering line (spec/49_ppu_rendering.md R219, R224 to R227, R232): the pipeline, the fetch, the moves
of `v` and the trailing read. -/

namespace Sys2Proof.Stated

open Sys2Proof.Machine

/-! ## The shift registers -/

theorem shiftLeft_one_eq_append (r : BitVec 16) : r <<< 1 = r.extractLsb' 0 15 ++ 0#1 := by
  apply BitVec.eq_of_getLsbD_eq
  intro i hi
  simp only [BitVec.getLsbD_append]
  interval_cases i <;> simp

/-- A reload keeps the high byte and loads the low one (R226). -/
theorem reload_eq_append (r : BitVec 16) (latch : Byte) :
    (r &&& 0xFF00) ||| latch.setWidth 16 = r.extractLsb' 8 8 ++ latch := by
  apply BitVec.eq_of_getLsbD_eq
  intro i hi
  simp only [BitVec.getLsbD_append]
  interval_cases i <;> simp

theorem spreadBit_eq (b : Bool) : spreadBit b = (spread b).setWidth 16 := by
  cases b <;> rfl

/-- The shift and the reload of a dot, plane by plane (R224 to R226). -/
theorem pipelineDot_eq (d : Nat) (p : Ppu) : pipelineDot d p = { p with
    shPtLo := nextShifter d p.shPtLo p.bgNextLo
    shPtHi := nextShifter d p.shPtHi p.bgNextHi
    shAtLo := nextShifter d p.shAtLo (spread (p.bgNextAt.getLsbD 0))
    shAtHi := nextShifter d p.shAtHi (spread (p.bgNextAt.getLsbD 1)) } := by
  have hshift : shiftDot d = true ↔ (2 ≤ d ∧ d ≤ 257) ∨ (322 ≤ d ∧ d ≤ 337) := by simp [shiftDot]
  have hreload : reloadDot d = true ↔ (9 ≤ d ∧ d ≤ 257 ∧ d % 8 = 1) ∨ d = 329 ∨ d = 337 := by
    simp [reloadDot, and_assoc, or_assoc]
  simp only [pipelineDot, nextShifter, ← hshift, ← hreload, ← shiftLeft_one_eq_append, ← reload_eq_append,
    ← spreadBit_eq, shiftRegisters, reloadRegisters]
  cases shiftDot d <;> cases reloadDot d <;> rfl

/-! ## The fetch of a dot -/

theorem fetchDot_iff (d : Nat) : fetchDot d = true ↔ FetchDot d := by simp [fetchDot]

/-- What a dot reads in its fetch group, if anything: by its place in the group of eight (R219, R224). -/
def phaseAddress (d : Nat) (p : Ppu) : Option (BitVec 14) :=
  if d % 8 = 1 then some (nametableAddress p.v)
  else if d % 8 = 3 then some (attributeAddress p.v)
  else if d % 8 = 5 then some (patternAddress p)
  else if d % 8 = 7 then some (patternAddress p + 8)
  else none

/-- The latch a fetched byte fills, or the step of `v`, by the dot's place in the group of eight (R219, R224). -/
def latched (d : Nat) (b : Byte) (p : Ppu) : Ppu :=
  { p with
    v := if d % 8 = 0 then stepX p.v else p.v
    bgNextNt := if d % 8 = 1 then b else p.bgNextNt
    bgNextAt := if d % 8 = 3 then (b >>> attributeShift p.v).setWidth 2 else p.bgNextAt
    bgNextLo := if d % 8 = 5 then b else p.bgNextLo
    bgNextHi := if d % 8 = 7 then b else p.bgNextHi }

/-- What PpuBus answers to a read that is made or not. -/
def answerAt (s : State) : Option (BitVec 14) → Byte
  | some a => ppuBusAnswer a s
  | none => 0x00

/-- The transfer of a read that is made or not. -/
def readAt (b : Byte) : Option (BitVec 14) → List IoEvent
  | some a => [.ppuRead a b]
  | none => []

/-- A dot of a fetch group reads at its address and fills its latch, or steps `v` (R219, R224). -/
theorem fetchPhase_eq {d : Nat} (hd : 1 ≤ d) (s : State) : fetchPhase d s =
    { s.recordAll (readAt (answerAt s (phaseAddress d s.ppu)) (phaseAddress d s.ppu)) with
      ppu := latched d (answerAt s (phaseAddress d s.ppu)) s.ppu } := by
  obtain ⟨k, hk⟩ : ∃ k, (d - 1) % 8 = k := ⟨_, rfl⟩
  have hlt : k < 8 := by omega
  have hmod : d % 8 = (k + 1) % 8 := by omega
  unfold fetchPhase phaseAddress latched
  rw [hk, hmod]
  interval_cases k <;> simp [readAt, State.mapPpu, incrementX_eq_stepX] <;> rfl

/-- The trailing nametable reads of a line (R224, D40). -/
def trailingAddress (d : Nat) (v : BitVec 15) : Option (BitVec 14) :=
  if d = 337 ∨ d = 339 then some (nametableAddress v) else none

theorem trailingRead_eq (d : Nat) (s : State) : trailingRead d s =
    s.recordAll (readAt (answerAt s (trailingAddress d s.ppu.v)) (trailingAddress d s.ppu.v)) := by
  unfold trailingRead trailingAddress
  split
  · rfl
  · simp [readAt]

theorem dotAddress_eq (s : State) : dotAddress s =
    if FetchDot s.ppu.dot then phaseAddress s.ppu.dot s.ppu else trailingAddress s.ppu.dot (nextV s) := rfl

/-! ## The moves of `v` -/

/-- After the step of the fetch group the dot moves `v` by the Y increment and the copies (R224, R227). -/
theorem scrollDot_nextV {s : State} {p : Ppu} (ht : p.t = s.ppu.t)
    (hv : p.v = if FetchDot s.ppu.dot ∧ s.ppu.dot % 8 = 0 then stepX s.ppu.v else s.ppu.v) :
    scrollDot s.ppu.scanline s.ppu.dot s.params.hcopyDot p = { p with v := nextV s } := by
  simp only [scrollDot, nextV, ht, hv, incrementY_eq_stepY, horizontalCopy_eq_copyX, verticalCopy_eq_copyY]

theorem renderDot_of_rendering {s : State} (h : Rendering s) :
    renderDot s = backgroundDot s.ppu.scanline s.ppu.dot s := by
  obtain ⟨hlow, hhigh, hr⟩ := h
  exact if_pos ⟨hlow, hhigh, by rwa [renderingEnabled, Bool.or_eq_true]⟩

/-! ## The dot -/

section

variable (s : State)

/-- The state after the shift and the reload of the dot. -/
def afterPipeline : State := s.mapPpu (pipelineDot s.ppu.dot)

theorem afterPipeline_ppu : (afterPipeline s).ppu = { s.ppu with
    shPtLo := nextShifter s.ppu.dot s.ppu.shPtLo s.ppu.bgNextLo
    shPtHi := nextShifter s.ppu.dot s.ppu.shPtHi s.ppu.bgNextHi
    shAtLo := nextShifter s.ppu.dot s.ppu.shAtLo (spread (s.ppu.bgNextAt.getLsbD 0))
    shAtHi := nextShifter s.ppu.dot s.ppu.shAtHi (spread (s.ppu.bgNextAt.getLsbD 1)) } :=
  pipelineDot_eq _ _

theorem answerAt_afterPipeline (a : Option (BitVec 14)) : answerAt (afterPipeline s) a = answerAt s a := by
  cases a <;> rfl

theorem phaseAddress_afterPipeline :
    phaseAddress s.ppu.dot (afterPipeline s).ppu = phaseAddress s.ppu.dot s.ppu := by
  rw [afterPipeline_ppu]
  rfl

variable {s}

/-- A dot of a fetch group: the pipeline, the fetch and the moves of `v` (R224). -/
theorem backgroundDot_of_fetchDot (h : FetchDot s.ppu.dot) :
    backgroundDot s.ppu.scanline s.ppu.dot s =
      { s.recordAll (readAt (answerAt s (dotAddress s)) (dotAddress s)) with
        ppu := { latched s.ppu.dot (answerAt s (dotAddress s)) (afterPipeline s).ppu with v := nextV s } } := by
  have htrailing : ¬(s.ppu.dot = 337 ∨ s.ppu.dot = 339) := by omega
  have hfetch := fetchPhase_eq (d := s.ppu.dot) (by omega) (afterPipeline s)
  rw [phaseAddress_afterPipeline, answerAt_afterPipeline] at hfetch
  rw [dotAddress_eq, if_pos h, backgroundDot, if_pos ((fetchDot_iff _).2 h), trailingRead, if_neg htrailing]
  change State.mapPpu _ (fetchPhase _ (afterPipeline s)) = _
  rw [hfetch, State.mapPpu, scrollDot_nextV]
  · rfl
  · rw [afterPipeline_ppu]
    rfl
  · simp only [latched, afterPipeline_ppu, h, true_and]

/-- A dot outside the fetch groups: the pipeline, the moves of `v` and the trailing read (R224, D40). -/
theorem backgroundDot_of_not_fetchDot (h : ¬FetchDot s.ppu.dot) :
    backgroundDot s.ppu.scanline s.ppu.dot s =
      { s.recordAll (readAt (answerAt s (dotAddress s)) (dotAddress s)) with
        ppu := { (afterPipeline s).ppu with v := nextV s } } := by
  have hscroll : scrollDot s.ppu.scanline s.ppu.dot s.params.hcopyDot (afterPipeline s).ppu =
      { (afterPipeline s).ppu with v := nextV s } := by
    apply scrollDot_nextV
    · rw [afterPipeline_ppu]
    · simp only [afterPipeline_ppu, h, false_and, if_false]
  rw [dotAddress_eq, if_neg h, backgroundDot, if_neg (mt (fetchDot_iff _).1 h)]
  change trailingRead _ ((afterPipeline s).mapPpu (scrollDot _ _ _)) = _
  rw [trailingRead_eq, State.mapPpu, hscroll]
  cases trailingAddress s.ppu.dot (nextV s) <;> rfl

end

/-- Settles O50: a dot of a fetch group makes the group's read, any other at most the trailing one. -/
theorem renderingDotSchedule : Obligations.RenderingDotSchedule := by
  intro s hr
  refine ⟨answerAt s (dotAddress s), fun a ha => by rw [ha]; rfl, ?_⟩
  rw [renderDot_of_rendering hr]
  by_cases h : FetchDot s.ppu.dot
  · rw [backgroundDot_of_fetchDot h, afterPipeline_ppu]
    simp only [h, true_and, latched]
    cases dotAddress s <;> rfl
  · rw [backgroundDot_of_not_fetchDot h, afterPipeline_ppu]
    simp only [h, false_and, if_false]
    cases dotAddress s <;> rfl

end Sys2Proof.Stated
end
